-- ==== Sys2Proof/Word.lean ====
section
/-! DEFINITION. The values of the CORE and the names of its registers (00_scope.md R5, R6; 10_state.md R14). -/

namespace Sys2Proof

/-- A W-bit value with W = 8, the width this hardware takes (00_scope.md R5, 92_eei_decisions.md D27; log 6). Bit 0 is the
least significant digit (R6). Registers, immediates, addresses and memory cells all have this width. -/
abbrev Word := BitVec 8

/-- A 24-bit instruction word, bit 23 the most significant (30_encoding.md R48). -/
abbrev InstrWord := BitVec 24

/-- A bit-string as the host writes it, most significant digit first (00_scope.md R6). Its length is whatever the host
wrote, which is what the loader checks (60_exceptions.md R116, R117). -/
abbrev Digits := List Bool

/-- The eleven registers (10_state.md R14): `sp`, `lr` and `pc` are registers 8, 9 and 10. None is hardwired and none is
banked (R15). -/
inductive Reg where
  | r0 | r1 | r2 | r3 | r4 | r5 | r6 | r7 | sp | lr | pc
deriving DecidableEq, Repr

end Sys2Proof
end

