-- ==== Sys2Proof/Config.lean ====
section
/-! DEFINITION. What the spec leaves open: an implementation's parameter and a free value. Neither has a body, so no proof
can see a value of it. -/

namespace Sys2Proof

/-- MEMCAP, the capacity of the data memory (00_scope.md R5, 10_state.md R27, 92_eei_decisions.md D15): OPEN, with no effect
on any run (log 7). -/
opaque Config.memCap : Nat

/-- FREE VALUE (log 5). The 8-bit `fault_addr` is "the offending `idx`" (10_state.md R24); where the offence is that the idx
is not 8 digits (60_exceptions.md R116), the spec does not say which 8 bits it holds. -/
opaque Config.faultAddrOfWrongWidthIdx : Digits → Word

end Sys2Proof
end

