-- ==== Sys2Proof/Syntax.lean ====
section
/-! DEFINITION. The instruction records of 30_encoding.md R46 and R47, one constructor per row of the opcode table. The
record's own address `idx` is the slot it stands in (R57), so it is no argument. -/

namespace Sys2Proof

/-- A decoded instruction. `rd` is the destination, `rn` and `rm` the sources, `imm` the immediate and `address` the
absolute branch target (30_encoding.md R46). CondBranch with its two types (R53) is the two constructors `cbz`, `cbnz`. -/
inductive Instr where
  | addReg (rd rn rm : Reg)
  | addImm (rd rn : Reg) (imm : Word)
  | subReg (rd rn rm : Reg)
  | subImm (rd rn : Reg) (imm : Word)
  | movReg (rd rm : Reg)
  | movImm (rd : Reg) (imm : Word)
  | label
  | cbz (rn : Reg) (address : Word)
  | cbnz (rn : Reg) (address : Word)
  | bl (address : Word)
  | b (address : Word)
  | br (rn : Reg)
deriving DecidableEq, Repr

end Sys2Proof
end

