-- ==== Sys2Proof/WellFormed.lean ====
section
/-! DEFINITION. Which records are legal: the operand ranges of 30_encoding.md R50 and R58. -/

namespace Sys2Proof

/-- A data-processing destination may be r0..r7 or sp, not lr and not pc (10_state.md R17, 30_encoding.md R58 case 3,
92_eei_decisions.md D6). -/
def Reg.isDestination (r : Reg) : Bool := r != .lr && r != .pc

/-- The record forms 30_encoding.md R58 does not reserve. Source registers are unrestricted (10_state.md R16), so only the
six forms with a destination have a check. -/
def Instr.wf : Instr → Bool
  | .addReg rd _ _ => rd.isDestination
  | .addImm rd _ _ => rd.isDestination
  | .subReg rd _ _ => rd.isDestination
  | .subImm rd _ _ => rd.isDestination
  | .movReg rd _ => rd.isDestination
  | .movImm rd _ => rd.isDestination
  | .label => true
  | .cbz _ _ => true
  | .cbnz _ _ => true
  | .bl _ => true
  | .b _ => true
  | .br _ => true

end Sys2Proof
end

