-- ==== Sys2Proof/Decode.lean ====
section
/-! DEFINITION. The instruction_decoder: the 24-bit word of 30_encoding.md R48 to R58 taken apart, and the encoder that
writes it. -/

namespace Sys2Proof

/-- The five fields of the one instruction format (30_encoding.md R48): op [23:20], a [19:16], n [15:12], m [11:8],
i [7:0]. -/
structure Fields where
  op : BitVec 4
  a : BitVec 4
  n : BitVec 4
  m : BitVec 4
  i : BitVec 8
deriving DecidableEq, Repr

/-- 30_encoding.md R48. -/
def fieldsOf (w : InstrWord) : Fields :=
  { op := w.extractLsb' 20 4, a := w.extractLsb' 16 4, n := w.extractLsb' 12 4, m := w.extractLsb' 8 4,
    i := w.extractLsb' 0 8 }

/-- 30_encoding.md R48, the other way. -/
def wordOf (f : Fields) : InstrWord := f.op ++ f.a ++ f.n ++ f.m ++ f.i

/-- The register numbers of 30_encoding.md R50. -/
def Reg.number : Reg → BitVec 4
  | .r0 => 0#4 | .r1 => 1#4 | .r2 => 2#4 | .r3 => 3#4 | .r4 => 4#4 | .r5 => 5#4 | .r6 => 6#4 | .r7 => 7#4
  | .sp => 8#4 | .lr => 9#4 | .pc => 10#4

/-- The register a field names (30_encoding.md R50). Values 11 to 15 are reserved. -/
def regOfNumber (x : BitVec 4) : Option Reg :=
  match x.toNat with
  | 0 => some .r0 | 1 => some .r1 | 2 => some .r2 | 3 => some .r3 | 4 => some .r4 | 5 => some .r5 | 6 => some .r6
  | 7 => some .r7 | 8 => some .sp | 9 => some .lr | 10 => some .pc
  | _ => none

/-- Why a word is `Illegal`: the five cases of 30_encoding.md R58, in its order. Which name a word with several offences
gets is the model's choice and changes nothing that happens (log 11). -/
inductive Reserved where
  /-- Opcode 0xB to 0xF. -/
  | opcode
  /-- A used source field of 11 to 15. -/
  | sourceRegister
  /-- A destination field of lr, pc or 11 to 15. -/
  | destinationRegister
  /-- A condition type of 2 to 15. -/
  | conditionType
  /-- A nonzero should-be-zero field. -/
  | shouldBeZero
deriving DecidableEq, Repr

/-- Go on with the source register a field names, or reject the word (30_encoding.md R58 case 2). -/
def withSource (x : BitVec 4) (k : Reg → Except Reserved Instr) : Except Reserved Instr :=
  match regOfNumber x with
  | some r => k r
  | none => .error .sourceRegister

/-- Go on with the destination register a field names, or reject the word (30_encoding.md R58 case 3). -/
def withDestination (x : BitVec 4) (k : Reg → Except Reserved Instr) : Except Reserved Instr :=
  match regOfNumber x with
  | some r => if r.isDestination then k r else .error .destinationRegister
  | none => .error .destinationRegister

/-- Go on if a should-be-zero field is zero, or reject the word (30_encoding.md R58 case 5). -/
def withZero {n : Nat} (x : BitVec n) (k : Except Reserved Instr) : Except Reserved Instr :=
  if x = 0#n then k else .error .shouldBeZero

/-- The opcode map of 30_encoding.md R49 with the field use of R51 and the condition types of R53. -/
def decodeFields (f : Fields) : Except Reserved Instr :=
  match f.op.toNat with
  | 0 => withDestination f.a fun rd => withSource f.n fun rn => withSource f.m fun rm =>
      withZero f.i (.ok (.addReg rd rn rm))
  | 1 => withDestination f.a fun rd => withSource f.n fun rn => withZero f.m (.ok (.addImm rd rn f.i))
  | 2 => withDestination f.a fun rd => withSource f.n fun rn => withSource f.m fun rm =>
      withZero f.i (.ok (.subReg rd rn rm))
  | 3 => withDestination f.a fun rd => withSource f.n fun rn => withZero f.m (.ok (.subImm rd rn f.i))
  | 4 => withDestination f.a fun rd => withSource f.m fun rm => withZero f.n (withZero f.i (.ok (.movReg rd rm)))
  | 5 => withDestination f.a fun rd => withZero f.n (withZero f.m (.ok (.movImm rd f.i)))
  | 6 => withZero f.a (withZero f.n (withZero f.m (withZero f.i (.ok .label))))
  | 7 =>
    match f.a.toNat with
    | 0 => withSource f.n fun rn => withZero f.m (.ok (.cbz rn f.i))
    | 1 => withSource f.n fun rn => withZero f.m (.ok (.cbnz rn f.i))
    | _ => .error .conditionType
  | 8 => withZero f.a (withZero f.n (withZero f.m (.ok (.bl f.i))))
  | 9 => withZero f.a (withZero f.n (withZero f.m (.ok (.b f.i))))
  | 10 => withSource f.n fun rn => withZero f.a (withZero f.m (withZero f.i (.ok (.br rn))))
  | _ => .error .opcode

/-- The total function of 30_encoding.md R57: a record, or `Illegal` with the name of the reserved case. -/
def decode (w : InstrWord) : Except Reserved Instr := decodeFields (fieldsOf w)

/-- The fields of a record (30_encoding.md R49, R50, R51, R53, R54, R56). It is total: a record with a reserved
destination has the word its fields spell, as 95_test_vectors.md P6 loads one. -/
def encodeFields : Instr → Fields
  | .addReg rd rn rm => { op := 0x0#4, a := rd.number, n := rn.number, m := rm.number, i := 0#8 }
  | .addImm rd rn imm => { op := 0x1#4, a := rd.number, n := rn.number, m := 0#4, i := imm }
  | .subReg rd rn rm => { op := 0x2#4, a := rd.number, n := rn.number, m := rm.number, i := 0#8 }
  | .subImm rd rn imm => { op := 0x3#4, a := rd.number, n := rn.number, m := 0#4, i := imm }
  | .movReg rd rm => { op := 0x4#4, a := rd.number, n := 0#4, m := rm.number, i := 0#8 }
  | .movImm rd imm => { op := 0x5#4, a := rd.number, n := 0#4, m := 0#4, i := imm }
  | .label => { op := 0x6#4, a := 0#4, n := 0#4, m := 0#4, i := 0#8 }
  | .cbz rn address => { op := 0x7#4, a := 0#4, n := rn.number, m := 0#4, i := address }
  | .cbnz rn address => { op := 0x7#4, a := 1#4, n := rn.number, m := 0#4, i := address }
  | .bl address => { op := 0x8#4, a := 0#4, n := 0#4, m := 0#4, i := address }
  | .b address => { op := 0x9#4, a := 0#4, n := 0#4, m := 0#4, i := address }
  | .br rn => { op := 0xA#4, a := 0#4, n := rn.number, m := 0#4, i := 0#8 }

/-- The one word of a record (30_encoding.md R61). -/
def encode (i : Instr) : InstrWord := wordOf (encodeFields i)

/-- One row of the match and mask table, 30_encoding.md R52. `maxA`, `maxN`, `maxM` are its constraint column: the largest
value of the register fields a, n, m, 15 where the row gives none. -/
structure TableRow where
  mnemonic : String
  pattern : InstrWord
  mask : InstrWord
  maxA : Nat
  maxN : Nat
  maxM : Nat
deriving DecidableEq, Repr

/-- The table of 30_encoding.md R52, row by row, under the mnemonics of spec/opcode_table.json. The decoder above is written
from R49 to R53 and R58; that the two agree is a statement, not a definition. -/
def opcodeTable : List TableRow :=
  [ ⟨"ADD__reg", 0x000000#24, 0xF000FF#24, 8, 10, 10⟩,
    ⟨"ADD__imm", 0x100000#24, 0xF00F00#24, 8, 10, 15⟩,
    ⟨"SUB__reg", 0x200000#24, 0xF000FF#24, 8, 10, 10⟩,
    ⟨"SUB__imm", 0x300000#24, 0xF00F00#24, 8, 10, 15⟩,
    ⟨"MOV__reg", 0x400000#24, 0xF0F0FF#24, 8, 15, 10⟩,
    ⟨"MOV__imm", 0x500000#24, 0xF0FF00#24, 8, 15, 15⟩,
    ⟨"LABEL", 0x600000#24, 0xFFFFFF#24, 15, 15, 15⟩,
    ⟨"CBZ", 0x700000#24, 0xFF0F00#24, 15, 10, 15⟩,
    ⟨"CBNZ", 0x710000#24, 0xFF0F00#24, 15, 10, 15⟩,
    ⟨"BL", 0x800000#24, 0xFFFF00#24, 15, 15, 15⟩,
    ⟨"B", 0x900000#24, 0xFFFF00#24, 15, 15, 15⟩,
    ⟨"BR", 0xA00000#24, 0xFF0FFF#24, 15, 10, 15⟩ ]

/-- A word selects a row when it has the row's fixed bits and meets its constraint (30_encoding.md R52). -/
def TableRow.selects (row : TableRow) (w : InstrWord) : Bool :=
  w &&& row.mask == row.pattern && (w.extractLsb' 16 4).toNat ≤ row.maxA && (w.extractLsb' 12 4).toNat ≤ row.maxN &&
    (w.extractLsb' 8 4).toNat ≤ row.maxM

/-- The mnemonic of a record's row in spec/opcode_table.json. -/
def Instr.mnemonic : Instr → String
  | .addReg _ _ _ => "ADD__reg"
  | .addImm _ _ _ => "ADD__imm"
  | .subReg _ _ _ => "SUB__reg"
  | .subImm _ _ _ => "SUB__imm"
  | .movReg _ _ => "MOV__reg"
  | .movImm _ _ => "MOV__imm"
  | .label => "LABEL"
  | .cbz _ _ => "CBZ"
  | .cbnz _ _ => "CBNZ"
  | .bl _ => "BL"
  | .b _ => "B"
  | .br _ => "BR"

/-- The record the decoder reads from an instruction whose bits are `w`. Every instruction is one 24-bit word in one slot
(30_encoding.md R60), so the bits above `nbits` up to 24 are zero, and more than 24 bits are no instruction. -/
def decodeTableWord (nbits w : Nat) : Option Instr :=
  if nbits ≤ 24 ∧ w < 2 ^ 24 then
    match decode (BitVec.ofNat 24 w) with
    | .ok i => some i
    | .error _ => none
  else none

end Sys2Proof
end

