-- ==== Sys2Proof/Machine/Alu.lean ====
section
/-! DEFINITION. The fixed_width_alu (40_alu.md), for any width, digit by digit as the spec gives it. -/

namespace Sys2Proof.Machine

/-- The pair `{result, carry}` of 40_alu.md R65. -/
structure AluOut (w : Nat) where
  result : BitVec w
  carry : Bool
deriving DecidableEq, Repr

/-- One digit position, the eight rows of 40_alu.md R66: sum digit and carry out. -/
def fullAdder : Bool → Bool → Bool → Bool × Bool
  | false, false, false => (false, false)
  | false, false, true => (true, false)
  | false, true, false => (true, false)
  | false, true, true => (false, true)
  | true, false, false => (true, false)
  | true, false, true => (false, true)
  | true, true, false => (false, true)
  | true, true, true => (true, true)

/-- The loop of 40_alu.md R67 after `n` digits, least significant first, carry-in 0: the `n` sum digits and `c[n]`. -/
def rippleTo {w : Nat} (a b : BitVec w) : (n : Nat) → AluOut n
  | 0 => { result := 0#0, carry := false }
  | n + 1 =>
    let low := rippleTo a b n
    let digit := fullAdder (a.getLsbD n) (b.getLsbD n) low.carry
    { result := BitVec.cons digit.1 low.result, carry := digit.2 }

/-- `add(a, b)`, ripple-carry addition (40_alu.md R67): the carry out of the top digit is reported, the overflow dropped. -/
def add {w : Nat} (a b : BitVec w) : AluOut w := rippleTo a b w

/-- `ones(b)` flips every digit (40_alu.md R69). -/
def ones {w : Nat} (b : BitVec w) : BitVec w := ~~~b

/-- `twos(b)` (40_alu.md R70): the carry of the inner addition is discarded. -/
def twos {w : Nat} (b : BitVec w) : BitVec w := (add (ones b) 1#w).result

/-- `sub(a, b)` (40_alu.md R71): result and carry are those of the outer addition. -/
def sub {w : Nat} (a b : BitVec w) : AluOut w := add a (twos b)

/-- The `op` port of 40_alu.md R65: 0 = ADD, 1 = SUB. -/
inductive AluOp where
  | add | sub
deriving DecidableEq, Repr

/-- The unit itself (40_alu.md R65): combinational, two operations and no others. -/
def alu {w : Nat} (op : AluOp) (a b : BitVec w) : AluOut w :=
  match op with
  | .add => add a b
  | .sub => sub a b

end Sys2Proof.Machine
end

