-- ==== Sys2Proof/Machine/Program.lean ====
section
/-! DEFINITION. What the host hands the loader: instruction records whose immediates, addresses and `idx` are bit-strings of
any length (30_encoding.md R46, 60_exceptions.md R116, R117; log 15). -/

namespace Sys2Proof.Machine

/-- A record's kind and operands before the loader has checked the widths. `word` is a slot the host writes as a bare 24-bit
word (70_reset_and_hazards.md R132; 95_test_vectors.md T62 has one that is no record). -/
inductive RawBody where
  | word (w : InstrWord)
  | addReg (rd rn rm : Reg)
  | addImm (rd rn : Reg) (imm : Digits)
  | subReg (rd rn rm : Reg)
  | subImm (rd rn : Reg) (imm : Digits)
  | movReg (rd rm : Reg)
  | movImm (rd : Reg) (imm : Digits)
  | label
  | cbz (rn : Reg) (address : Digits)
  | cbnz (rn : Reg) (address : Digits)
  | bl (address : Digits)
  | b (address : Digits)
  | br (rn : Reg)
deriving DecidableEq, Repr

/-- A record with its own address `idx` (30_encoding.md R46). -/
structure RawRecord where
  idx : Digits
  body : RawBody
deriving DecidableEq, Repr

end Sys2Proof.Machine
end

