-- ==== Sys2Proof/Machine/State.lean ====
section
/-! DEFINITION. The state of the CORE (10_state.md R13, R14, R24, R26, R27), plain data, and its value after reset (R29). -/

namespace Sys2Proof.Machine

/-- The register file: eleven 8-bit registers (10_state.md R14). -/
structure RegFile where
  r0 : Word
  r1 : Word
  r2 : Word
  r3 : Word
  r4 : Word
  r5 : Word
  r6 : Word
  r7 : Word
  sp : Word
  lr : Word
  pc : Word
deriving DecidableEq, Repr

/-- The data memory: the values of an ordered sequence, each with its position (10_state.md R27; log 8). -/
abbrev Memory := List Host.Cell

/-- The instruction store: the slots with `valid = 1`, each with its address, addresses rising; an unlisted slot has
`valid = 0` (10_state.md R26; log 9). -/
abbrev Store := List (Nat × InstrWord)

/-- The control_flow_engine status (10_state.md R24; log 20). -/
inductive Status where
  | reset | running | halted | faulted
deriving DecidableEq, Repr

/-- The fault causes of 60_exceptions.md R112. A fault of this hardware is a state it is in: `raiseFault` (R113), or the
release of reset after a rejected load (41_sequencing.md R90), records one of these in `State.faultCause` and answers a NEXT
state with status FAULTED. No step answers `Outcome.fault` (log 20). -/
inductive Fault where
  /-- Code 1. Recorded when reset is released after the loader found a duplicate `idx`, or an `idx` or branch address that is
  not 8 digits (60_exceptions.md R116). Safe: no instruction runs. -/
  | malformedProgram
  /-- Code 2. Recorded when reset is released after the loader found an immediate that is not 8 digits (60_exceptions.md
  R117). Safe: no instruction runs. -/
  | widthMismatch
  /-- Code 3. Recorded by the step that fetches a reserved word (41_sequencing.md R89), and by a meaning given a reserved
  record (30_encoding.md R61). Safe: nothing else changes and FAULTED is never a result (60_exceptions.md R115). -/
  | unknownInstructionKind
deriving DecidableEq, Repr

/-- Why a step is refused. Apart from `notModelled`, which no arm answers, a refusal concerns a move of the HOST that the spec
does not give it in that status, never an instruction (93_implementation_defined.md V6, V7; log 13). -/
inductive Refusal where
  /-- An instruction that has no meaning yet (exec's arms only). Safe. -/
  | notModelled (mnemonic : String)
  /-- Answered by a step whose host move writes the store while status is not RESET (70_reset_and_hazards.md R133, V6).
  Safe: the spec gives the host no such move. -/
  | loadOutsideReset
  /-- Answered by a step whose host move releases reset while status is not RESET (70_reset_and_hazards.md R132). Safe. -/
  | releaseOutsideReset
  /-- Answered by a step whose host move reads the state while status is RESET or RUNNING (60_exceptions.md R125, V7).
  Safe: what the host would read is not defined. -/
  | observeNotDefined
  /-- Answered by a step whose host move aborts a run while status is not RUNNING (70_reset_and_hazards.md R132). Safe. -/
  | abortOutsideRunning
deriving DecidableEq, Repr

/-- What the loader reports (70_reset_and_hazards.md R131, R132): no error, or a load-time fault and the offending `idx`. -/
inductive LoadVerdict where
  | ok
  | rejected (cause : Fault) (idx : Word)
deriving DecidableEq, Repr

/-- The host's interactions with the CORE, 70_reset_and_hazards.md R132. -/
inductive HostMove where
  /-- Write a program into the store, with the loader's checks (R131). -/
  | load (program : List RawRecord)
  /-- Release reset (R129). -/
  | releaseReset
  /-- Let the CORE take one step (the row "run": the host waits). -/
  | wait
  /-- Read the result or the fault record; the CORE does nothing. -/
  | observe
  /-- Stop the run on a step budget or timeout, then assert reset (60_exceptions.md R124; log 19). -/
  | abort
  /-- Assert reset (R127). -/
  | assertReset
deriving DecidableEq, Repr

/-- The state of the CORE (10_state.md R13), the instruction store (R26), the loader's verdict (70_reset_and_hazards.md
R131) and the host's pending moves (the model's own field, log 1). -/
structure State where
  /-- The register file, R14. -/
  regs : RegFile
  /-- The data memory, R27. -/
  mem : Memory
  /-- `status`, R24. -/
  status : Status
  /-- `fault_cause`, R24: `none` is code 0. -/
  faultCause : Option Fault
  /-- `fault_addr`, R24. -/
  faultAddr : Word
  /-- `fault_word`, R24. -/
  faultWord : InstrWord
  /-- The instruction store, R26. -/
  store : Store
  /-- The loader's report on the program in the store, 70_reset_and_hazards.md R131 (log 3). -/
  verdict : LoadVerdict
  /-- The host's moves not yet served, oldest first (log 1). -/
  host : List HostMove
deriving DecidableEq, Repr

/-- Every register at 0 (10_state.md R29). -/
def RegFile.reset : RegFile :=
  { r0 := 0#8, r1 := 0#8, r2 := 0#8, r3 := 0#8, r4 := 0#8, r5 := 0#8, r6 := 0#8, r7 := 0#8, sp := 0#8, lr := 0#8,
    pc := 0#8 }

/-- The machine right after reset (10_state.md R29, 70_reset_and_hazards.md R127): registers 0, data memory empty, status
RESET, fault record 0. The store is "not changed by reset"; before the first load it lists nothing (log 12), no error is
reported (log 3), and the host has no move pending (log 1). -/
def State.reset : State :=
  { regs := RegFile.reset, mem := [], status := .reset, faultCause := none, faultAddr := 0#8, faultWord := 0#24,
    store := [], verdict := .ok, host := [] }

end Sys2Proof.Machine
end

