-- ==== Sys2Proof/Machine/Ops.lean ====
section
/-! DEFINITION. The named operations over registers, memory, store and engine status. Every read and write of State by a
meaning, by the fetch or by the host goes through them. -/

namespace Sys2Proof.Machine

/-- `x[r]` (00_scope.md R7, 10_state.md R16). -/
def State.readReg (s : State) (r : Reg) : Word :=
  match r with
  | .r0 => s.regs.r0 | .r1 => s.regs.r1 | .r2 => s.regs.r2 | .r3 => s.regs.r3
  | .r4 => s.regs.r4 | .r5 => s.regs.r5 | .r6 => s.regs.r6 | .r7 => s.regs.r7
  | .sp => s.regs.sp | .lr => s.regs.lr | .pc => s.regs.pc

/-- The register file with one register written. -/
def RegFile.write (f : RegFile) (r : Reg) (v : Word) : RegFile :=
  match r with
  | .r0 => { f with r0 := v } | .r1 => { f with r1 := v } | .r2 => { f with r2 := v } | .r3 => { f with r3 := v }
  | .r4 => { f with r4 := v } | .r5 => { f with r5 := v } | .r6 => { f with r6 := v } | .r7 => { f with r7 := v }
  | .sp => { f with sp := v } | .lr => { f with lr := v } | .pc => { f with pc := v }

/-- `x[r] <- v` (00_scope.md R7): no other register and nothing else changes. -/
def State.writeReg (s : State) (r : Reg) (v : Word) : State := { s with regs := s.regs.write r v }

/-- `pc'`, the default next pc (41_sequencing.md R78, 40_alu.md R75): it wraps, its carry is discarded. -/
def State.pcInc (s : State) : Word := (add (s.readReg .pc) 1#8).result

/-- The value the data memory holds at a position, as the host reads it in HALTED (70_reset_and_hazards.md R132); nothing
where there is no such position. It is no instruction's read: 20_memory.md R36 gives MemRead no meaning (log 8). -/
def State.memByte (s : State) (position : Nat) : Option (BitVec 8) := s.mem.lookup position

/-- The canonical form of the data memory: one value at each position 0, 1, 2, ... and no more than MEMCAP of them
(10_state.md R27; log 7, log 8). -/
abbrev Memory.wf (m : Memory) : Prop := m.map (fun cell => cell.1) = List.range m.length ∧ m.length ≤ Config.memCap

/-- The word of the slot at an address, `none` where `valid = 0` (10_state.md R26). -/
def Store.slot : Store → Nat → Option InstrWord
  | [], _ => none
  | (k, w) :: rest, a => if k = a then some w else Store.slot rest a

/-- Set the slot at an address to `valid = 1` and a word, keeping the addresses rising. -/
def Store.put : Store → Nat → InstrWord → Store
  | [], a, w => [(a, w)]
  | (k, v) :: rest, a, w =>
    if a < k then (a, w) :: (k, v) :: rest
    else if a = k then (a, w) :: rest
    else (k, v) :: Store.put rest a w

/-- The canonical form of the store: addresses strictly rising, all of the 256 slots of 20_memory.md R33. -/
abbrev Store.wf (st : Store) : Prop := st.Pairwise (fun x y => x.1 < y.1) ∧ ∀ x ∈ st, x.1 < 256

/-- `IFetch(a)` (41_sequencing.md R81): `some word` is a hit, `none` a miss. -/
def State.fetch (s : State) (a : Word) : Option InstrWord := Store.slot s.store a.toNat

/-- `halt` (41_sequencing.md R82): no register and no memory changes. -/
def State.halt (s : State) : State := { s with status := .halted }

/-- `raise Fault(cause, info)` (60_exceptions.md R113), the one place where a fault is taken: status, cause, address and word
are recorded and nothing else changes. There is no trap entry and no handler (R119). -/
def State.raiseFault (s : State) (cause : Fault) (addr : Word) (word : InstrWord) : State :=
  { s with status := .faulted, faultCause := some cause, faultAddr := addr, faultWord := word }

/-- UnknownInstructionKind in the step that fetched `word` (41_sequencing.md R89): the address is pc. -/
def State.raiseUnknown (s : State) (word : InstrWord) : State :=
  s.raiseFault .unknownInstructionKind (s.readReg .pc) word

/-- Reset asserted (70_reset_and_hazards.md R127; log 14), the only way out of HALTED and FAULTED (60_exceptions.md R120): every field
at its reset value, the store, with the loader's report on it (log 3), and the host's further moves kept. -/
def State.assertReset (s : State) : State :=
  { State.reset with store := s.store, verdict := s.verdict, host := s.host }

/-- Reset released (41_sequencing.md R90, 70_reset_and_hazards.md R129): RUNNING, or FAULTED with the load-time fault record
of 60_exceptions.md R112 (its `fault_word` is 0). -/
def State.releaseReset (s : State) : State :=
  match s.verdict with
  | .ok => { s with status := .running }
  | .rejected cause idx => s.raiseFault cause idx 0#24

/-- The writes at the end of an executed step (41_sequencing.md R88): port D, port L and port N of the register file (R80),
every value computed from the state at the step's start (R77). -/
def State.writeBack (s : State) (result : Option (Reg × Word)) (link : Option Word) (pcNext : Word) : State :=
  let s1 := match result with
    | some (rd, v) => s.writeReg rd v
    | none => s
  let s2 := match link with
    | some v => s1.writeReg .lr v
    | none => s1
  s2.writeReg .pc pcNext

/-- The end of a data-processing instruction `i` (42_data_processing.md): its destination gets `v` and pc gets pc'. A record
with a destination of lr or pc is a reserved form, which raises UnknownInstructionKind and writes nothing
(30_encoding.md R58, R61; log 10). -/
def State.retireData (s : State) (i : Instr) (rd : Reg) (v : Word) : Host.Outcome State Fault Refusal :=
  if rd.isDestination then .next (s.writeBack (some (rd, v)) none s.pcInc) else .next (s.raiseUnknown (encode i))

/-- The end of an instruction that writes pc alone (42_data_processing.md R101, 43_control_transfer.md R103 item 5). -/
def State.retirePc (s : State) (pcNext : Word) : Host.Outcome State Fault Refusal :=
  .next (s.writeBack none none pcNext)

end Sys2Proof.Machine
end

