-- ==== Sys2Proof/Machine/Operands.lean ====
section
/-! DEFINITION. The operand forms: the second operand of the data-processing instructions (41_sequencing.md R85) and the
sources of the next pc (R86). -/

namespace Sys2Proof.Machine

/-- The second operand of ADD, SUB and MOV (41_sequencing.md R85): a register through port B, or the immediate as it stands
(30_encoding.md R54, R55). -/
inductive Operand2 where
  | reg (rm : Reg)
  | imm (v : Word)
deriving DecidableEq, Repr

/-- `opB` (41_sequencing.md R85). -/
def Operand2.value (o : Operand2) (s : State) : Word :=
  match o with
  | .reg rm => s.readReg rm
  | .imm v => v

/-- The three sources of the program_counter_mux (41_sequencing.md R86). -/
inductive PcSource where
  | inc
  | addr (address : Word)
  | reg (rn : Reg)
deriving DecidableEq, Repr

/-- `pc_next` (41_sequencing.md R86). An address is absolute, never relative to pc (30_encoding.md R56). -/
def PcSource.value (p : PcSource) (s : State) : Word :=
  match p with
  | .inc => s.pcInc
  | .addr address => address
  | .reg rn => s.readReg rn

end Sys2Proof.Machine
end

