-- ==== Sys2Proof/Machine/Flags.lean ====
section
/-! DEFINITION. The CORE has no flags register and no condition codes (10_state.md R23); the only condition is the zero
detector of the control_flow_engine, read by CBZ and CBNZ. -/

namespace Sys2Proof.Machine

/-- `Z` (41_sequencing.md R87): every bit of the value is 0. -/
def zeroDetect (v : Word) : Bool := v == 0#8

end Sys2Proof.Machine
end

