-- ==== Sys2Proof/Machine/ControlTransfer.lean ====
section
/-! DEFINITION. The control-transfer instructions (43_control_transfer.md): CBZ, CBNZ, BL, B, BR. Targets are absolute and
always legal (R103 items 1, 2), and no branch has a delay slot (item 5). -/

namespace Sys2Proof.Machine

/-- CBZ Rn, address (43_control_transfer.md R104). -/
def execCbz (rn : Reg) (address : Word) (s : State) : Host.Outcome State Fault Refusal :=
  s.retirePc ((if zeroDetect (s.readReg rn) then PcSource.addr address else PcSource.inc).value s)

/-- CBNZ Rn, address (43_control_transfer.md R105). -/
def execCbnz (rn : Reg) (address : Word) (s : State) : Host.Outcome State Fault Refusal :=
  s.retirePc ((if zeroDetect (s.readReg rn) then PcSource.inc else PcSource.addr address).value s)

/-- BL address (43_control_transfer.md R106): lr gets pc', the address after the BL (90_conflicts.md C1). -/
def execBl (address : Word) (s : State) : Host.Outcome State Fault Refusal :=
  .next (s.writeBack none (some s.pcInc) ((PcSource.addr address).value s))

/-- B address (43_control_transfer.md R107): lr is not written. -/
def execB (address : Word) (s : State) : Host.Outcome State Fault Refusal :=
  s.retirePc ((PcSource.addr address).value s)

/-- BR Rn (43_control_transfer.md R108). -/
def execBr (rn : Reg) (s : State) : Host.Outcome State Fault Refusal :=
  s.retirePc ((PcSource.reg rn).value s)

end Sys2Proof.Machine
end

