-- ==== Sys2Proof/Machine/DataProcessing.lean ====
section
/-! DEFINITION. The data-processing instructions (42_data_processing.md): ADD, SUB, MOV, LABEL. No flag is written, no data
memory is touched (R102), and the ALU's carry is discarded (10_state.md R23). -/

namespace Sys2Proof.Machine

/-- ADD Rd, Rn, Rm (42_data_processing.md R95). -/
def execAddReg (rd rn rm : Reg) (s : State) : Host.Outcome State Fault Refusal :=
  s.retireData (.addReg rd rn rm) rd (alu .add (s.readReg rn) ((Operand2.reg rm).value s)).result

/-- ADD Rd, Rn, #imm (42_data_processing.md R96). -/
def execAddImm (rd rn : Reg) (imm : Word) (s : State) : Host.Outcome State Fault Refusal :=
  s.retireData (.addImm rd rn imm) rd (alu .add (s.readReg rn) ((Operand2.imm imm).value s)).result

/-- SUB Rd, Rn, Rm (42_data_processing.md R97): Rn is the minuend. -/
def execSubReg (rd rn rm : Reg) (s : State) : Host.Outcome State Fault Refusal :=
  s.retireData (.subReg rd rn rm) rd (alu .sub (s.readReg rn) ((Operand2.reg rm).value s)).result

/-- SUB Rd, Rn, #imm (42_data_processing.md R98). -/
def execSubImm (rd rn : Reg) (imm : Word) (s : State) : Host.Outcome State Fault Refusal :=
  s.retireData (.subImm rd rn imm) rd (alu .sub (s.readReg rn) ((Operand2.imm imm).value s)).result

/-- MOV Rd, Rm (42_data_processing.md R99): the ALU is not used. -/
def execMovReg (rd rm : Reg) (s : State) : Host.Outcome State Fault Refusal :=
  s.retireData (.movReg rd rm) rd ((Operand2.reg rm).value s)

/-- MOV Rd, #imm (42_data_processing.md R100). -/
def execMovImm (rd : Reg) (imm : Word) (s : State) : Host.Outcome State Fault Refusal :=
  s.retireData (.movImm rd imm) rd ((Operand2.imm imm).value s)

/-- LABEL (42_data_processing.md R101): a no-op that takes one step and one slot. -/
def execLabel (s : State) : Host.Outcome State Fault Refusal :=
  s.retirePc (PcSource.inc.value s)

end Sys2Proof.Machine
end

