-- ==== Sys2Proof/Machine/Dispatch.lean ====
section
/-! DEFINITION. `step(instr, ctx)` of 00_scope.md R8: one case per instruction kind (30_encoding.md R47). -/

namespace Sys2Proof.Machine

def exec (i : Instr) (s : State) : Host.Outcome State Fault Refusal :=
  match i with
  | .addReg rd rn rm => Sys2Proof.Machine.execAddReg rd rn rm s
  | .addImm rd rn imm => Sys2Proof.Machine.execAddImm rd rn imm s
  | .subReg rd rn rm => Sys2Proof.Machine.execSubReg rd rn rm s
  | .subImm rd rn imm => Sys2Proof.Machine.execSubImm rd rn imm s
  | .movReg rd rm => Sys2Proof.Machine.execMovReg rd rm s
  | .movImm rd imm => Sys2Proof.Machine.execMovImm rd imm s
  | .label => Sys2Proof.Machine.execLabel s
  | .cbz rn address => Sys2Proof.Machine.execCbz rn address s
  | .cbnz rn address => Sys2Proof.Machine.execCbnz rn address s
  | .bl address => Sys2Proof.Machine.execBl address s
  | .b address => Sys2Proof.Machine.execB address s
  | .br rn => Sys2Proof.Machine.execBr rn s

end Sys2Proof.Machine
end

