-- ==== Sys2Proof/Machine/Loader.lean ====
section
/-! DEFINITION. The loader, on the host's side (60_exceptions.md R116 to R118, 70_reset_and_hazards.md R131): it checks the
records in program order and writes the store. -/

namespace Sys2Proof.Machine

/-- The value of a bit-string, most significant digit first (00_scope.md R6). -/
def digitsValue (d : Digits) : Nat := d.foldl (fun acc bit => 2 * acc + bit.toNat) 0

/-- The 8-bit value of a bit-string the loader has found to be 8 digits. -/
def digitsWord (d : Digits) : Word := BitVec.ofNat 8 (digitsValue d)

/-- The branch address operand of a record, if its kind has one (30_encoding.md R46). -/
def RawBody.addressOperand : RawBody → Option Digits
  | .word _ => none
  | .addReg _ _ _ => none
  | .addImm _ _ _ => none
  | .subReg _ _ _ => none
  | .subImm _ _ _ => none
  | .movReg _ _ => none
  | .movImm _ _ => none
  | .label => none
  | .cbz _ address => some address
  | .cbnz _ address => some address
  | .bl address => some address
  | .b address => some address
  | .br _ => none

/-- The immediate operand of a record, if its kind has one (30_encoding.md R46). -/
def RawBody.immediateOperand : RawBody → Option Digits
  | .word _ => none
  | .addReg _ _ _ => none
  | .addImm _ _ imm => some imm
  | .subReg _ _ _ => none
  | .subImm _ _ imm => some imm
  | .movReg _ _ => none
  | .movImm _ imm => some imm
  | .label => none
  | .cbz _ _ => none
  | .cbnz _ _ => none
  | .bl _ => none
  | .b _ => none
  | .br _ => none

/-- The word the loader puts into a record's slot (70_reset_and_hazards.md R131, 30_encoding.md R52). -/
def RawBody.toWord : RawBody → InstrWord
  | .word w => w
  | .addReg rd rn rm => encode (.addReg rd rn rm)
  | .addImm rd rn imm => encode (.addImm rd rn (digitsWord imm))
  | .subReg rd rn rm => encode (.subReg rd rn rm)
  | .subImm rd rn imm => encode (.subImm rd rn (digitsWord imm))
  | .movReg rd rm => encode (.movReg rd rm)
  | .movImm rd imm => encode (.movImm rd (digitsWord imm))
  | .label => encode .label
  | .cbz rn address => encode (.cbz rn (digitsWord address))
  | .cbnz rn address => encode (.cbnz rn (digitsWord address))
  | .bl address => encode (.bl (digitsWord address))
  | .b address => encode (.b (digitsWord address))
  | .br rn => encode (.br rn)

/-- A bit-string of exactly 8 digits; an absent operand passes. -/
def widthOk : Option Digits → Bool
  | some d => d.length == 8
  | none => true

/-- What is wrong with a record, given the `idx` of the records before it: MalformedProgram (60_exceptions.md R116) before
WidthMismatch (R117), as R118 orders them. A duplicate is reported at the second record that carries the `idx`. -/
def recordFault (seen : List Digits) (r : RawRecord) : Option Fault :=
  if !(widthOk (some r.idx) && widthOk r.body.addressOperand) || seen.contains r.idx then some .malformedProgram
  else if !widthOk r.body.immediateOperand then some .widthMismatch
  else none

/-- `fault_addr` for a record the loader rejects: its `idx` (10_state.md R24), or the free value of log 5 where the `idx` is
itself not 8 digits. -/
def offendingIdx (r : RawRecord) : Word :=
  if widthOk (some r.idx) then digitsWord r.idx else Config.faultAddrOfWrongWidthIdx r.idx

/-- The first record with an error, in program order (60_exceptions.md R118). -/
def checkRecords (seen : List Digits) : List RawRecord → LoadVerdict
  | [] => .ok
  | r :: rest =>
    match recordFault seen r with
    | some cause => .rejected cause (offendingIdx r)
    | none => checkRecords (r.idx :: seen) rest

/-- The store of an accepted program: the slot of each record's `idx`, and no other, holds its word
(70_reset_and_hazards.md R131). -/
def placeRecords : List RawRecord → Store
  | [] => []
  | r :: rest => Store.put (placeRecords rest) (digitsWord r.idx).toNat r.body.toWord

/-- Load a program (70_reset_and_hazards.md R131, R132). A rejected program leaves every slot empty (log 4). -/
def State.loadProgram (s : State) (program : List RawRecord) : State :=
  match checkRecords [] program with
  | .ok => { s with store := placeRecords program, verdict := .ok }
  | .rejected cause idx => { s with store := [], verdict := .rejected cause idx }

end Sys2Proof.Machine
end

