-- ==== Sys2Proof/Machine/Engine.lean ====
section
/-! DEFINITION. The control_flow_engine (41_sequencing.md R90 to R94) and the host's moves between its steps
(70_reset_and_hazards.md R132). -/

namespace Sys2Proof.Machine

/-- `engine_step()` of 41_sequencing.md R91: miss, then illegal, then execute. -/
def engineStep (s : State) : Host.Outcome State Fault Refusal :=
  match s.fetch (s.readReg .pc) with
  | none => .next s.halt
  | some w =>
    match decode w with
    | .error _ => .next (s.raiseUnknown w)
    | .ok i => exec i s

/-- One turn of the CORE with no event from the host (41_sequencing.md R90): RUNNING steps, HALTED and FAULTED absorb, and
RESET lasts until the host releases it (70_reset_and_hazards.md R127). -/
def coreTurn (s : State) : Host.Outcome State Fault Refusal :=
  match s.status with
  | .running => engineStep s
  | .reset => .next s
  | .halted => .next s
  | .faulted => .next s

/-- One move of the host, in the statuses 70_reset_and_hazards.md R132 gives it; in another status the move is refused by
name (93_implementation_defined.md V6, V7; log 13). -/
def hostTurn (move : HostMove) (s : State) : Host.Outcome State Fault Refusal :=
  match move with
  | .load program => if s.status = .reset then .next (s.loadProgram program) else .refused .loadOutsideReset
  | .releaseReset => if s.status = .reset then .next s.releaseReset else .refused .releaseOutsideReset
  | .wait => coreTurn s
  | .observe => if s.status = .halted ∨ s.status = .faulted then .next s else .refused .observeNotDefined
  | .abort => if s.status = .running then .next s.assertReset else .refused .abortOutsideRunning
  | .assertReset => .next s.assertReset

/-- One step of the machine: the oldest pending move of the host, or else a turn of the CORE (log 1). -/
def machineStep (s : State) : Host.Outcome State Fault Refusal :=
  match s.host with
  | [] => coreTurn s
  | move :: rest => hostTurn move { s with host := rest }

/-- The state with an instruction loaded where the next fetch looks, reset released, and no host move before it: the load and
the release of 70_reset_and_hazards.md R131 and R129 for one word (log 2). -/
def State.loadedAtPc (s : State) (word : InstrWord) : State :=
  { s with store := Store.put s.store (s.readReg .pc).toNat word, status := .running, host := [] }

end Sys2Proof.Machine
end

