-- ==== Sys2Proof/Machine/Step.lean ====
section
/-! DEFINITION. The machine's step and the state the host fetches a given word from. -/

namespace Sys2Proof.Machine

def step (s : State) : Host.Outcome State Fault Refusal := machineStep s

/-- `s` with an instruction whose bits are `w` in the slot at pc (every instruction is one 24-bit word in one slot,
30_encoding.md R60, so the bits above `nbits` are zero) and the run started (log 2). -/
def State.withFetchWord (s : State) (_nbits w : Nat) : State := s.loadedAtPc (BitVec.ofNat 24 w)

end Sys2Proof.Machine
end

