-- ==== Sys2Proof/Machine/Datapath.lean ====
section
/-! DEFINITION. The datapath of 41_sequencing.md: register-file ports (R80), control signals (R84), second-operand mux (R85),
program_counter_mux (R86), zero detector (R87) and write-back (R88). The instruction rules govern (R84), so `exec` is written
from them; that this datapath does what `exec` does is a statement. -/

namespace Sys2Proof.Machine

/-- `b_sel` of 41_sequencing.md R84. -/
inductive BSel where
  | reg | imm
deriving DecidableEq, Repr

/-- `res_sel` of 41_sequencing.md R84. -/
inductive ResSel where
  | alu | b
deriving DecidableEq, Repr

/-- `pc_sel` of 41_sequencing.md R86. -/
inductive PcSel where
  | inc | addr | rn
deriving DecidableEq, Repr

/-- One row of control signals (41_sequencing.md R84). -/
structure Signals where
  aluOp : AluOp
  bSel : BSel
  resSel : ResSel
  rdWe : Bool
  lrWe : Bool
  pcSel : PcSel
deriving DecidableEq, Repr

/-- What stands on the signals 41_sequencing.md R84 marks "any", and on a read port whose address lines carry a reserved
number (no legal word drives one): an argument, so that nothing rests on a value (log 18). -/
structure DontCare where
  aluOp : AluOp
  bSel : BSel
  resSel : ResSel
  floating : Word
deriving DecidableEq, Repr

/-- The control table of 41_sequencing.md R84; `z` is the zero detector. -/
def controlSignals (any : DontCare) (z : Bool) : Instr → Signals
  | .addReg _ _ _ => ⟨.add, .reg, .alu, true, false, .inc⟩
  | .addImm _ _ _ => ⟨.add, .imm, .alu, true, false, .inc⟩
  | .subReg _ _ _ => ⟨.sub, .reg, .alu, true, false, .inc⟩
  | .subImm _ _ _ => ⟨.sub, .imm, .alu, true, false, .inc⟩
  | .movReg _ _ => ⟨any.aluOp, .reg, .b, true, false, .inc⟩
  | .movImm _ _ => ⟨any.aluOp, .imm, .b, true, false, .inc⟩
  | .label => ⟨any.aluOp, any.bSel, any.resSel, false, false, .inc⟩
  | .cbz _ _ => ⟨any.aluOp, any.bSel, any.resSel, false, false, if z then .addr else .inc⟩
  | .cbnz _ _ => ⟨any.aluOp, any.bSel, any.resSel, false, false, if z then .inc else .addr⟩
  | .bl _ => ⟨any.aluOp, any.bSel, any.resSel, false, true, .addr⟩
  | .b _ => ⟨any.aluOp, any.bSel, any.resSel, false, false, .addr⟩
  | .br _ => ⟨any.aluOp, any.bSel, any.resSel, false, false, .rn⟩

/-- Read port A or B (41_sequencing.md R80): the 4-bit number on its address lines selects the register. -/
def readPort (any : DontCare) (s : State) (number : BitVec 4) : Word :=
  match regOfNumber number with
  | some r => s.readReg r
  | none => any.floating

/-- One executed step of the datapath on an instruction word that decodes to `i`: the field lines of the word drive the ports
(41_sequencing.md R80), the control signals of R84 the muxes, and R88 the writes. -/
def datapath (any : DontCare) (f : Fields) (i : Instr) (s : State) : State :=
  let a := readPort any s f.n
  let c := controlSignals any (zeroDetect a) i
  let opB := match c.bSel with
    | .reg => readPort any s f.m
    | .imm => f.i
  let result := match c.resSel with
    | .alu => (alu c.aluOp a opB).result
    | .b => opB
  let pcNext := match c.pcSel with
    | .inc => s.pcInc
    | .addr => f.i
    | .rn => a
  let destination := if c.rdWe then (regOfNumber f.a).map (fun rd => (rd, result)) else none
  let link := if c.lrWe then some s.pcInc else none
  s.writeBack destination link pcNext

end Sys2Proof.Machine
end

