-- ==== Sys2Proof/Machine/HostPort.lean ====
section
/-! DEFINITION. What the host sees of the CORE: the fault record's codes, the result, and a run under a step budget
(10_state.md R24, R30; 60_exceptions.md R124, R125). -/

namespace Sys2Proof.Machine

/-- The 2-bit codes of `status` (10_state.md R24). -/
def Status.code : Status → BitVec 2
  | .reset => 0#2 | .running => 1#2 | .halted => 2#2 | .faulted => 3#2

/-- The 2-bit codes of `fault_cause` (10_state.md R24, 60_exceptions.md R112). -/
def faultCode : Option Fault → BitVec 2
  | none => 0#2
  | some .malformedProgram => 1#2
  | some .widthMismatch => 2#2
  | some .unknownInstructionKind => 3#2

/-- What the host reads. In HALTED it is the final context (70_reset_and_hazards.md R132). In FAULTED it is the fault record
with the frozen registers and data memory, which are no result (60_exceptions.md R115). DESIGN CHOICE (log 21): R125 defines the
reading of registers and data memory in FAULTED too, and the FAULTED row of R132 lists the fault record only; the model follows
R125. The constructor tells the status. -/
inductive Observation where
  | result (regs : RegFile) (mem : Memory)
  | fault (cause : BitVec 2) (addr : Word) (word : InstrWord) (frozen : RegFile) (frozenMem : Memory)
deriving DecidableEq, Repr

/-- Reads are defined only in HALTED and FAULTED (60_exceptions.md R125). That the data memory of a FAULTED core is among them is
the model's choice between R125 and R132 (DESIGN CHOICE, log 21). -/
def State.observation (s : State) : Option Observation :=
  match s.status with
  | .reset => none
  | .running => none
  | .halted => some (.result s.regs s.mem)
  | .faulted => some (.fault (faultCode s.faultCause) s.faultAddr s.faultWord s.regs s.mem)

/-- How a run under a budget ends (60_exceptions.md R124): BudgetExceeded is the host's outcome, distinct from HALTED, and
carries no result. `notStarted` is a CORE still in RESET; `stopped` would be a step that answers no next state. -/
inductive RunOutcome where
  | halted (s : State)
  | faulted (s : State)
  | budgetExceeded
  | notStarted
  | stopped
deriving DecidableEq, Repr

/-- The host's run with a budget of at most `maxSteps` turns of the CORE (41_sequencing.md R92, 60_exceptions.md R124;
log 16). The CORE counts nothing itself. -/
def runWithin (maxSteps : Nat) (s : State) : RunOutcome :=
  match s.status with
  | .reset => .notStarted
  | .halted => .halted s
  | .faulted => .faulted s
  | .running =>
    match maxSteps with
    | 0 => .budgetExceeded
    | n + 1 =>
      match engineStep s with
      | .next t => runWithin n t
      | .fault _ => .stopped
      | .refused _ => .stopped

end Sys2Proof.Machine
end

