-- ==== Sys2Proof/Safety.lean ====
section
/-! DEFINITION. The terms the claims use: what an instruction may change, what a taken fault looks like, which states are
consistent, and what a safe run is. -/

namespace Sys2Proof

/-- The registers each instruction writes, the table of 10_state.md R17. -/
def Instr.writes : Instr → List Reg
  | .addReg rd _ _ => [rd, .pc]
  | .addImm rd _ _ => [rd, .pc]
  | .subReg rd _ _ => [rd, .pc]
  | .subImm rd _ _ => [rd, .pc]
  | .movReg rd _ => [rd, .pc]
  | .movImm rd _ => [rd, .pc]
  | .label => [.pc]
  | .cbz _ _ => [.pc]
  | .cbnz _ _ => [.pc]
  | .bl _ => [.lr, .pc]
  | .b _ => [.pc]
  | .br _ => [.pc]

/-- The registers an instruction names as a source (10_state.md R16). -/
def Instr.sources : Instr → List Reg
  | .addReg _ rn rm => [rn, rm]
  | .addImm _ rn _ => [rn]
  | .subReg _ rn rm => [rn, rm]
  | .subImm _ rn _ => [rn]
  | .movReg _ rm => [rm]
  | .movImm _ _ => []
  | .label => []
  | .cbz rn _ => [rn]
  | .cbnz rn _ => [rn]
  | .bl _ => []
  | .b _ => []
  | .br rn => [rn]

end Sys2Proof

namespace Sys2Proof.Machine

/-- `t` is `s` but for the registers of `rs`: every other register, every byte of the data memory, the store, the status, the
fault record, the loader's report and the host's moves are unchanged (41_sequencing.md R79). -/
def SameExcept (rs : List Reg) (s t : State) : Prop :=
  (∀ r, r ∉ rs → t.readReg r = s.readReg r) ∧
  (∀ position, t.memByte position = s.memByte position) ∧ t.mem = s.mem ∧
  (∀ a, t.fetch a = s.fetch a) ∧ t.store = s.store ∧
  t.status = s.status ∧ t.faultCause = s.faultCause ∧ t.faultAddr = s.faultAddr ∧ t.faultWord = s.faultWord ∧
  t.verdict = s.verdict ∧ t.host = s.host

/-- `t` is `s` after `raise Fault(cause, {addr, word})` (60_exceptions.md R113): the fault is recorded and every register, the
data memory, the store, the loader's report and the host's moves are unchanged. -/
def FaultTaken (cause : Fault) (addr : Word) (word : InstrWord) (s t : State) : Prop :=
  t.status = .faulted ∧ t.faultCause = some cause ∧ t.faultAddr = addr ∧ t.faultWord = word ∧
  (∀ r, t.readReg r = s.readReg r) ∧ (∀ position, t.memByte position = s.memByte position) ∧ t.mem = s.mem ∧
  t.store = s.store ∧ t.verdict = s.verdict ∧ t.host = s.host

/-- The reset value of the context (10_state.md R29). -/
def State.contextIsReset (s : State) : Prop := (∀ r, s.readReg r = 0#8) ∧ s.mem = []

/-- What every state the machine can be in satisfies. -/
structure State.Inv (s : State) : Prop where
  /-- The data memory is a sequence (10_state.md R27). -/
  mem_wf : Memory.wf s.mem
  /-- The store holds at most one word per slot, in the 256 slots (10_state.md R26, 41_sequencing.md R83). -/
  store_wf : Store.wf s.store
  /-- In RESET the context is the reset context (70_reset_and_hazards.md R127). -/
  reset_context : s.status = .reset → s.contextIsReset
  /-- Only FAULTED has a fault record (10_state.md R24). -/
  no_record : s.status ≠ .faulted → s.faultCause = none ∧ s.faultAddr = 0#8 ∧ s.faultWord = 0#24
  /-- FAULTED has a cause (60_exceptions.md R113). -/
  has_cause : s.status = .faulted → s.faultCause ≠ none
  /-- UnknownInstructionKind stands at pc and names the reserved word of the slot there (60_exceptions.md R112). -/
  unknown_record : s.faultCause = some .unknownInstructionKind →
    s.faultAddr = s.readReg .pc ∧ s.fetch (s.readReg .pc) = some s.faultWord ∧ ∃ e, decode s.faultWord = .error e
  /-- A load-time fault has no word, and no instruction has run (60_exceptions.md R112, R116). -/
  load_record : s.faultCause = some .malformedProgram ∨ s.faultCause = some .widthMismatch →
    s.faultWord = 0#24 ∧ s.contextIsReset
  /-- The loader reports load-time faults only (60_exceptions.md R112). -/
  verdict_cause : ∀ idx, s.verdict ≠ .rejected .unknownInstructionKind idx

/-- No pending host move asserts reset: the moves `abort` and `assertReset` do (70_reset_and_hazards.md R132). -/
def State.noResetPending (s : State) : Prop := ∀ move ∈ s.host, move ≠ .abort ∧ move ≠ .assertReset

/-- A safe run is one that records no fault: only then is its context a result (41_sequencing.md R93, 60_exceptions.md
R115). -/
def State.safe (s : State) : Prop := s.status ≠ .faulted

/-- The loader's MalformedProgram condition on a record after the records `before` (60_exceptions.md R116). -/
def MalformedAfter (before : List RawRecord) (r : RawRecord) : Prop :=
  (∃ q ∈ before, q.idx = r.idx) ∨ r.idx.length ≠ 8 ∨ ∃ address, r.body.addressOperand = some address ∧ address.length ≠ 8

/-- The loader's WidthMismatch condition on a record (60_exceptions.md R117). -/
def WrongImmediateWidth (r : RawRecord) : Prop :=
  ∃ imm, r.body.immediateOperand = some imm ∧ imm.length ≠ 8

/-- A program in which no record is rejected: no two records share an `idx` and every width is 8 (60_exceptions.md R116,
R117). -/
def ProgramAccepted (program : List RawRecord) : Prop :=
  ∀ before r after, program = before ++ r :: after → ¬ MalformedAfter before r ∧ ¬ WrongImmediateWidth r

end Sys2Proof.Machine
end

