-- ==== Sys2Proof/Certificates/Slice0/Obligations.lean ====
section
/-! DEFINITION. The statements about the ts-insom CORE for the provers, each with the rule of spec/ it comes from. -/

open Sys2Proof Sys2Proof.Machine

/-! ## fixed_width_alu -/

/-- 40_alu.md R67: `add` is the digit-by-digit loop over the full adder with carry-in 0, its carry is the final carry, it
commutes, and overflow is dropped: add(0xFF, 0x01) = {0x00, 1}, add(0x02, 0x01) = {0x03, 0}. For every width. -/
def Obligations.RippleCarryAddsDigitByDigit : Prop :=
  (∀ (w : Nat) (a b : BitVec w), ∃ c : Nat → Bool, c 0 = false ∧
    (∀ k, k < w → ((add a b).result.getLsbD k, c (k + 1)) = fullAdder (a.getLsbD k) (b.getLsbD k) (c k)) ∧
    (add a b).carry = c w) ∧
  (∀ (w : Nat) (a b : BitVec w), add a b = add b a) ∧
  add 0xFF#8 0x01#8 = ⟨0x00#8, true⟩ ∧ add 0x02#8 0x01#8 = ⟨0x03#8, false⟩

/-- The arithmetic reading of `add` that 40_alu.md derives from the ripple-carry loop, for every width: addition modulo 2^W,
carry exactly when the sum does not fit. -/
def Obligations.AdderIsAdditionModulo : Prop :=
  ∀ (w : Nat) (a b : BitVec w),
    (add a b).result.toNat = (a.toNat + b.toNat) % 2 ^ w ∧ ((add a b).carry = true ↔ 2 ^ w ≤ a.toNat + b.toNat)

/-- 40_alu.md R69: `ones` flips every digit, which is 2^W - 1 - uint(b); ones(0x01) = 0xFE. -/
def Obligations.OnesComplementFlipsEveryDigit : Prop :=
  (∀ (w : Nat) (b : BitVec w), (∀ k, k < w → (ones b).getLsbD k = !b.getLsbD k) ∧ (ones b).toNat = 2 ^ w - 1 - b.toNat) ∧
  ones 0x01#8 = 0xFE#8

/-- The arithmetic reading of `twos` and `sub` that 40_alu.md derives: negation and subtraction modulo 2^W, and a carry
exactly when b is not 0 and a is at least b, which is not an inverted borrow. -/
def Obligations.SubtractionIsSubtractionModulo : Prop :=
  ∀ (w : Nat) (a b : BitVec w), 0 < w →
    (twos b).toNat = (2 ^ w - b.toNat) % 2 ^ w ∧
    (sub a b).result.toNat = (2 ^ w - b.toNat + a.toNat) % 2 ^ w ∧
    ((sub a b).carry = true ↔ b.toNat ≠ 0 ∧ b.toNat ≤ a.toNat)

/-- 40_alu.md R76: the additive-inverse round trip, the additive identity, and the complement cancels. For every width. -/
def Obligations.AluRoundTripIdentityAndCancellation : Prop :=
  ∀ (w : Nat) (a b : BitVec w), 0 < w →
    (sub (add a b).result b).result = a ∧
    (add a 0#w).result = a ∧ (add a 0#w).carry = false ∧
    (add a (twos a)).result = 0#w

/-! ## instruction_decoder -/

/-- Words written out from the bit patterns of 30_encoding.md, one for each row, decode to the instructions they stand for;
these are words of 42_data_processing.md, 43_control_transfer.md and 95_test_vectors.md. -/
def Obligations.WordsOfEveryRowDecode : Prop :=
  decode 0b0000_0000_0001_0010_00000000#24 = .ok (.addReg .r0 .r1 .r2) ∧
  decode 0b0001_0011_0011_0000_00000001#24 = .ok (.addImm .r3 .r3 0x01#8) ∧
  decode 0b0010_0000_0001_0010_00000000#24 = .ok (.subReg .r0 .r1 .r2) ∧
  decode 0b0011_0001_0001_0000_00000001#24 = .ok (.subImm .r1 .r1 0x01#8) ∧
  decode 0b0100_0100_0000_1010_00000000#24 = .ok (.movReg .r4 .pc) ∧
  decode 0b0101_0000_0000_0000_00000010#24 = .ok (.movImm .r0 0x02#8) ∧
  decode 0b0110_0000_0000_0000_00000000#24 = .ok .label ∧
  decode 0b0111_0000_0001_0000_00000111#24 = .ok (.cbz .r1 0x07#8) ∧
  decode 0b0111_0001_0000_0000_00000101#24 = .ok (.cbnz .r0 0x05#8) ∧
  decode 0b1000_0000_0000_0000_00000100#24 = .ok (.bl 0x04#8) ∧
  decode 0b1001_0000_0000_0000_00000010#24 = .ok (.b 0x02#8) ∧
  decode 0b1010_0000_1001_0000_00000000#24 = .ok (.br .lr)

/-- Every legal record, with every operand at every value, decodes back from its word (30_encoding.md section 4, "every legal
record ... has exactly one word"). -/
def Obligations.DecodeOfEncodeIsTheRecord : Prop :=
  ∀ i : Instr, i.wf = true → decode (encode i) = .ok i

/-- Every legal word is the word of the record it decodes to, and that record is legal (30_encoding.md section 4, "every legal
word has exactly one record"). -/
def Obligations.EncodeOfDecodeIsTheWord : Prop :=
  ∀ (w : InstrWord) (i : Instr), decode w = .ok i → encode i = w ∧ i.wf = true

/-- 30_encoding.md R57: the decoder is the total function that answers the record of the row of the match and mask table a
word selects, its fields those of the word, and `Illegal` where it selects none; `Illegal` makes the step raise
UnknownInstructionKind. -/
def Obligations.DecoderFollowsTheMatchMaskTable : Prop :=
  (∀ (w : InstrWord) (row : TableRow), row ∈ opcodeTable → row.selects w = true →
    ∃ i, decode w = .ok i ∧ i.mnemonic = row.mnemonic ∧ encode i = w) ∧
  (∀ w : InstrWord, (∀ row ∈ opcodeTable, row.selects w = false) →
    (∃ e, decode w = .error e) ∧
    ∀ s : State, s.host = [] → s.status = .running → s.fetch (s.readReg .pc) = some w →
      ∃ t, step s = .next t ∧ FaultTaken .unknownInstructionKind (s.readReg .pc) w s t)

/-- "No word matches two rows" (30_encoding.md section 2): the fixed bits alone keep the rows apart. -/
def Obligations.NoWordHasTheFixedBitsOfTwoRows : Prop :=
  ∀ (w : InstrWord) (row row' : TableRow), row ∈ opcodeTable → row' ∈ opcodeTable →
    w &&& row.mask = row.pattern → w &&& row'.mask = row'.pattern → row = row'

/-- 30_encoding.md R58: each of the five kinds of reserved word decodes to `Illegal` and raises UnknownInstructionKind when
executed. The fields are those of R48 and the kinds' use of them is R51. -/
def Obligations.ReservedEncodingsRaiseUnknown : Prop :=
  ∀ f : Fields,
    (0xB ≤ f.op.toNat ∨
     (f.op.toNat ∈ [0x0, 0x1, 0x2, 0x3, 0x7, 0xA] ∧ 11 ≤ f.n.toNat) ∨
     (f.op.toNat ∈ [0x0, 0x2, 0x4] ∧ 11 ≤ f.m.toNat) ∨
     (f.op.toNat ∈ [0x0, 0x1, 0x2, 0x3, 0x4, 0x5] ∧ 9 ≤ f.a.toNat) ∨
     (f.op.toNat = 0x7 ∧ 2 ≤ f.a.toNat) ∨
     (f.op.toNat ∈ [0x6, 0x8, 0x9, 0xA] ∧ f.a ≠ 0#4) ∨
     (f.op.toNat ∈ [0x4, 0x5, 0x6, 0x8, 0x9] ∧ f.n ≠ 0#4) ∨
     (f.op.toNat ∈ [0x1, 0x3, 0x5, 0x6, 0x7, 0x8, 0x9, 0xA] ∧ f.m ≠ 0#4) ∨
     (f.op.toNat ∈ [0x0, 0x2, 0x4, 0x6, 0xA] ∧ f.i ≠ 0#8)) →
    (∃ e, decode (wordOf f) = .error e) ∧
    ∀ s : State, s.host = [] → s.status = .running → s.fetch (s.readReg .pc) = some (wordOf f) →
      ∃ t, step s = .next t ∧ FaultTaken .unknownInstructionKind (s.readReg .pc) (wordOf f) s t

/-! ## Data-processing instructions: encoding, completion, result, pc and frame -/

/-- 42_data_processing.md R95. -/
def Obligations.AddRegisterWritesTheSum : Prop :=
  ∀ (rd rn rm : Reg) (s : State), rd ≠ .lr → rd ≠ .pc →
    decode (wordOf ⟨0x0#4, rd.number, rn.number, rm.number, 0#8⟩) = .ok (.addReg rd rn rm) ∧
    ∃ t, exec (.addReg rd rn rm) s = .next t ∧ t.readReg rd = s.readReg rn + s.readReg rm ∧
      t.readReg .pc = s.readReg .pc + 1#8 ∧ SameExcept [rd, .pc] s t

/-- 42_data_processing.md R96. -/
def Obligations.AddImmediateWritesTheSum : Prop :=
  ∀ (rd rn : Reg) (imm : Word) (s : State), rd ≠ .lr → rd ≠ .pc →
    decode (wordOf ⟨0x1#4, rd.number, rn.number, 0#4, imm⟩) = .ok (.addImm rd rn imm) ∧
    ∃ t, exec (.addImm rd rn imm) s = .next t ∧ t.readReg rd = s.readReg rn + imm ∧
      t.readReg .pc = s.readReg .pc + 1#8 ∧ SameExcept [rd, .pc] s t

/-- 42_data_processing.md R97. -/
def Obligations.SubRegisterWritesTheDifference : Prop :=
  ∀ (rd rn rm : Reg) (s : State), rd ≠ .lr → rd ≠ .pc →
    decode (wordOf ⟨0x2#4, rd.number, rn.number, rm.number, 0#8⟩) = .ok (.subReg rd rn rm) ∧
    ∃ t, exec (.subReg rd rn rm) s = .next t ∧ t.readReg rd = s.readReg rn - s.readReg rm ∧
      t.readReg .pc = s.readReg .pc + 1#8 ∧ SameExcept [rd, .pc] s t

/-- 42_data_processing.md R98. -/
def Obligations.SubImmediateWritesTheDifference : Prop :=
  ∀ (rd rn : Reg) (imm : Word) (s : State), rd ≠ .lr → rd ≠ .pc →
    decode (wordOf ⟨0x3#4, rd.number, rn.number, 0#4, imm⟩) = .ok (.subImm rd rn imm) ∧
    ∃ t, exec (.subImm rd rn imm) s = .next t ∧ t.readReg rd = s.readReg rn - imm ∧
      t.readReg .pc = s.readReg .pc + 1#8 ∧ SameExcept [rd, .pc] s t

/-- 42_data_processing.md R99. -/
def Obligations.MovRegisterCopiesTheSource : Prop :=
  ∀ (rd rm : Reg) (s : State), rd ≠ .lr → rd ≠ .pc →
    decode (wordOf ⟨0x4#4, rd.number, 0#4, rm.number, 0#8⟩) = .ok (.movReg rd rm) ∧
    ∃ t, exec (.movReg rd rm) s = .next t ∧ t.readReg rd = s.readReg rm ∧
      t.readReg .pc = s.readReg .pc + 1#8 ∧ SameExcept [rd, .pc] s t

/-- 42_data_processing.md R100. -/
def Obligations.MovImmediateWritesTheImmediate : Prop :=
  ∀ (rd : Reg) (imm : Word) (s : State), rd ≠ .lr → rd ≠ .pc →
    decode (wordOf ⟨0x5#4, rd.number, 0#4, 0#4, imm⟩) = .ok (.movImm rd imm) ∧
    ∃ t, exec (.movImm rd imm) s = .next t ∧ t.readReg rd = imm ∧
      t.readReg .pc = s.readReg .pc + 1#8 ∧ SameExcept [rd, .pc] s t

/-- 42_data_processing.md R101, its corner at 0xFF included. -/
def Obligations.LabelOnlyAdvancesThePc : Prop :=
  decode 0x600000#24 = .ok .label ∧
  ∀ s : State, ∃ t, exec .label s = .next t ∧ t.readReg .pc = s.readReg .pc + 1#8 ∧ SameExcept [.pc] s t ∧
    (s.readReg .pc = 0xFF#8 → t.readReg .pc = 0x00#8)

/-! ## Control-transfer instructions: encoding, completion, pc and frame -/

/-- 43_control_transfer.md R104. -/
def Obligations.CbzBranchesExactlyOnZero : Prop :=
  ∀ (rn : Reg) (address : Word) (s : State),
    decode (wordOf ⟨0x7#4, 0#4, rn.number, 0#4, address⟩) = .ok (.cbz rn address) ∧
    ∃ t, exec (.cbz rn address) s = .next t ∧
      t.readReg .pc = (if s.readReg rn = 0#8 then address else s.readReg .pc + 1#8) ∧ SameExcept [.pc] s t

/-- 43_control_transfer.md R105. -/
def Obligations.CbnzBranchesExactlyOnNonzero : Prop :=
  ∀ (rn : Reg) (address : Word) (s : State),
    decode (wordOf ⟨0x7#4, 1#4, rn.number, 0#4, address⟩) = .ok (.cbnz rn address) ∧
    ∃ t, exec (.cbnz rn address) s = .next t ∧
      t.readReg .pc = (if s.readReg rn = 0#8 then s.readReg .pc + 1#8 else address) ∧ SameExcept [.pc] s t

/-- 43_control_transfer.md R106. -/
def Obligations.BlLinksTheNextAddress : Prop :=
  ∀ (address : Word) (s : State),
    decode (wordOf ⟨0x8#4, 0#4, 0#4, 0#4, address⟩) = .ok (.bl address) ∧
    ∃ t, exec (.bl address) s = .next t ∧ t.readReg .lr = s.readReg .pc + 1#8 ∧ t.readReg .pc = address ∧
      SameExcept [.lr, .pc] s t

/-- B: pc becomes the address and nothing else changes (43_control_transfer.md, B). The spec marks this meaning as its own
inference: "The semantics here are this spec's reading of those expectations" (92_eei_decisions.md D4). -/
def Obligations.BranchGoesToTheAddress : Prop :=
  ∀ (address : Word) (s : State),
    decode (wordOf ⟨0x9#4, 0#4, 0#4, 0#4, address⟩) = .ok (.b address) ∧
    ∃ t, exec (.b address) s = .next t ∧ t.readReg .pc = address ∧ SameExcept [.pc] s t

/-- BR: pc becomes the register's value and nothing else changes (43_control_transfer.md, BR). The spec marks this meaning as
its own inference: "The semantics here follow from those two passages" (92_eei_decisions.md D4). -/
def Obligations.BranchRegisterGoesToTheRegister : Prop :=
  ∀ (rn : Reg) (s : State),
    decode (wordOf ⟨0xA#4, 0#4, rn.number, 0#4, 0#8⟩) = .ok (.br rn) ∧
    ∃ t, exec (.br rn) s = .next t ∧ t.readReg .pc = s.readReg rn ∧ SameExcept [.pc] s t

/-- Two steps over 43_control_transfer.md R106 and R108: a BL into a slot that holds `BR lr` comes back to the address after
the BL, with lr holding it and nothing else changed but pc (section "Calling convention", R109). -/
def Obligations.CallThenReturnComesBack : Prop :=
  ∀ (address : Word) (s : State), s.host = [] → s.status = .running →
    s.fetch (s.readReg .pc) = some (encode (.bl address)) → s.fetch address = some (encode (.br .lr)) →
    ∃ t, Host.Core.run Sys2Proof.core 2 s = .next t ∧ t.readReg .pc = s.readReg .pc + 1#8 ∧
      t.readReg .lr = s.readReg .pc + 1#8 ∧ SameExcept [.lr, .pc] s t

/-! ## Rules about every instruction -/

/-- 10_state.md R17, the frame of 41_sequencing.md R79: every legal instruction completes and changes no register but those of
the table, and a word whose data-processing Rd is lr or pc raises UnknownInstructionKind and writes nothing. -/
def Obligations.OnlyTheListedRegistersChange : Prop :=
  (∀ (i : Instr) (s : State), i.wf = true → ∃ t, exec i s = .next t ∧ SameExcept i.writes s t) ∧
  (∀ (i : Instr) (s : State), i.wf = false → s.host = [] → s.status = .running →
    s.fetch (s.readReg .pc) = some (encode i) →
    ∃ t, step s = .next t ∧ FaultTaken .unknownInstructionKind (s.readReg .pc) (encode i) s t)

/-- A record whose destination is lr or pc, given to `exec` itself, raises UnknownInstructionKind with its own word. The spec
asks that the form be refused (30_encoding.md section 4); that `exec` does it this way is the model's choice (log 10). -/
def Obligations.ReservedRecordRaisesUnknown : Prop :=
  ∀ (i : Instr) (s : State), i.wf = false →
    ∃ t, exec i s = .next t ∧ FaultTaken .unknownInstructionKind (s.readReg .pc) (encode i) s t

/-- 10_state.md R18: a turn of the CORE changes lr only by executing a BL, which sets it to pc'; and lr has no influence on an
instruction that does not name it as a source. -/
def Obligations.LrIsWrittenOnlyByBl : Prop :=
  (∀ s t : State, coreTurn s = .next t → t.readReg .lr ≠ s.readReg .lr →
    ∃ w address, s.fetch (s.readReg .pc) = some w ∧ decode w = .ok (.bl address)) ∧
  (∀ (address : Word) (s : State), ∃ t, exec (.bl address) s = .next t ∧ t.readReg .lr = s.readReg .pc + 1#8) ∧
  (∀ (i : Instr) (v : Word) (s : State), i.wf = true → Reg.lr ∉ i.sources →
    ∃ t t', exec i s = .next t ∧ exec i (s.writeReg .lr v) = .next t' ∧ SameExcept [.lr] t t')

/-- 10_state.md R19: sp is neither read nor written except by naming it, and resets to 0. -/
def Obligations.SpHasNoImplicitUse : Prop :=
  (∀ (i : Instr) (s : State), i.wf = true → Reg.sp ∉ i.writes →
    ∃ t, exec i s = .next t ∧ t.readReg .sp = s.readReg .sp) ∧
  (∀ (i : Instr) (v : Word) (s : State), i.wf = true → Reg.sp ∉ i.sources →
    ∃ t t', exec i s = .next t ∧ exec i (s.writeReg .sp v) = .next t' ∧ SameExcept [.sp] t t') ∧
  State.reset.readReg .sp = 0#8

/-- 10_state.md R21: the next pc of every legal instruction, with pc' = pc + 1. -/
def Obligations.NextPcOfEveryInstruction : Prop :=
  ∀ (i : Instr) (s : State), i.wf = true → ∃ t, exec i s = .next t ∧
    t.readReg .pc = match i with
      | .addReg _ _ _ => s.readReg .pc + 1#8
      | .addImm _ _ _ => s.readReg .pc + 1#8
      | .subReg _ _ _ => s.readReg .pc + 1#8
      | .subImm _ _ _ => s.readReg .pc + 1#8
      | .movReg _ _ => s.readReg .pc + 1#8
      | .movImm _ _ => s.readReg .pc + 1#8
      | .label => s.readReg .pc + 1#8
      | .cbz rn address => if s.readReg rn = 0#8 then address else s.readReg .pc + 1#8
      | .cbnz rn address => if s.readReg rn ≠ 0#8 then address else s.readReg .pc + 1#8
      | .bl address => address
      | .b address => address
      | .br rn => s.readReg rn

/-- The status and the fault record have no influence on an instruction and are not written by one (10_state.md section 5, "No
instruction can read or write these fields"). -/
def Obligations.StatusAndFaultRecordAreInvisibleToInstructions : Prop :=
  ∀ (i : Instr) (s : State) (st : Status) (c : Option Fault) (a : Word) (w : InstrWord), i.wf = true →
    ∃ t, exec i s = .next t ∧ t.status = s.status ∧ t.faultCause = s.faultCause ∧ t.faultAddr = s.faultAddr ∧
      t.faultWord = s.faultWord ∧
      exec i { s with status := st, faultCause := c, faultAddr := a, faultWord := w } =
        .next { t with status := st, faultCause := c, faultAddr := a, faultWord := w }

/-- 20_memory.md R35: no instruction reads the data memory or writes it, and each step of the CORE passes it on. -/
def Obligations.NoInstructionReachesDataMemory : Prop :=
  (∀ (i : Instr) (s : State) (m : Memory), ∃ t, exec i s = .next t ∧ t.mem = s.mem ∧
    exec i { s with mem := m } = .next { t with mem := m }) ∧
  (∀ s t : State, coreTurn s = .next t → t.mem = s.mem)

/-- The datapath built from the ports, muxes and control table of 41_sequencing.md does, on every word that decodes, what the
instruction's own rule does, whatever stands on the signals the table marks "any". That those signals are an argument is the
model's choice (log 18). -/
def Obligations.DatapathImplementsEveryInstruction : Prop :=
  ∀ (any : DontCare) (w : InstrWord) (i : Instr) (s : State), decode w = .ok i →
    exec i s = .next (datapath any (fieldsOf w) i s)

/-! ## control_flow_engine -/

/-- 41_sequencing.md R91: one engine step, in its order: a miss halts, an illegal word raises the fault, and a legal one is
executed. With no host move pending (the model's own field, log 1) the machine's step is that engine step, with nothing added
around `exec`. -/
def Obligations.StepRunsTheDecodedInstruction : Prop :=
  ∀ s : State, s.host = [] → s.status = .running →
    (s.fetch (s.readReg .pc) = none → step s = .next { s with status := .halted }) ∧
    (∀ w, s.fetch (s.readReg .pc) = some w →
      (∀ e, decode w = .error e → ∃ t, step s = .next t ∧
        FaultTaken .unknownInstructionKind (s.readReg .pc) w s t) ∧
      (∀ i, decode w = .ok i → i.wf = true ∧ step s = exec i s))

/-- 41_sequencing.md R82: a miss halts and changes no register and no memory, pc keeps the address that missed, and a turn of
the CORE reaches HALTED from RUNNING in no other way. -/
def Obligations.AMissHaltsAndNothingElseDoes : Prop :=
  (∀ s : State, s.status = .running → s.fetch (s.readReg .pc) = none →
    ∃ t, coreTurn s = .next t ∧ t.status = .halted ∧ (∀ r, t.readReg r = s.readReg r) ∧ t.mem = s.mem ∧
      t.store = s.store ∧ t.faultCause = s.faultCause) ∧
  (∀ s t : State, s.status = .running → coreTurn s = .next t → t.status = .halted →
    s.fetch (s.readReg .pc) = none ∧ t = { s with status := .halted })

/-- 41_sequencing.md R89: an illegal word raises UnknownInstructionKind with the address pc and the word, and no register,
memory or pc write happens. -/
def Obligations.IllegalWordFaultsWithoutEffect : Prop :=
  ∀ (s : State) (w : InstrWord) (e : Reserved), s.status = .running → s.fetch (s.readReg .pc) = some w →
    decode w = .error e →
    ∃ t, coreTurn s = .next t ∧ FaultTaken .unknownInstructionKind (s.readReg .pc) w s t

/-- 41_sequencing.md R90: the table of states and transitions of the control_flow_engine, row by row. -/
def Obligations.EngineTransitionTable : Prop :=
  (∀ (s : State) (rest : List HostMove), s.host = .assertReset :: rest →
    ∃ t, step s = .next t ∧ t.status = .reset ∧ (∀ r, t.readReg r = 0#8) ∧ t.mem = [] ∧ t.faultCause = none ∧
      t.faultAddr = 0#8 ∧ t.faultWord = 0#24 ∧ t.store = s.store) ∧
  (∀ (s : State) (rest : List HostMove), s.host = .releaseReset :: rest → s.status = .reset →
    (s.verdict = .ok → step s = .next { s with status := .running, host := rest }) ∧
    (∀ cause idx, s.verdict = .rejected cause idx →
      ∃ t, step s = .next t ∧ FaultTaken cause idx 0#24 { s with host := rest } t)) ∧
  (∀ s : State, s.host = [] → s.status = .running → s.fetch (s.readReg .pc) = none →
    step s = .next { s with status := .halted }) ∧
  (∀ (s : State) (w : InstrWord), s.host = [] → s.status = .running → s.fetch (s.readReg .pc) = some w →
    (∀ e, decode w = .error e →
      ∃ t, step s = .next t ∧ FaultTaken .unknownInstructionKind (s.readReg .pc) w s t) ∧
    (∀ i, decode w = .ok i → ∃ t, step s = .next t ∧ t.status = .running ∧ SameExcept i.writes s t)) ∧
  (∀ s : State, s.host = [] → s.status = .halted → step s = .next s) ∧
  (∀ s : State, s.host = [] → s.status = .faulted → step s = .next s)

/-- 60_exceptions.md R114: FAULTED is absorbing until the host asserts reset. However many steps are taken and whatever other
moves the host makes, nothing changes but the list of those moves. HALTED is left in the same way only (R126). -/
def Obligations.FaultedAndHaltedAbsorbUntilReset : Prop :=
  ∀ (n : Nat) (s t : State), s.status = .faulted ∨ s.status = .halted → s.noResetPending →
    Host.Core.run Sys2Proof.core n s = .next t → t = { s with host := s.host.drop n }

/-- The only ways a run stops are a halt, a fault, or the host's action (60_exceptions.md section 1). -/
def Obligations.OnlyMissReservedWordOrHostStopsARun : Prop :=
  ∀ s t : State, s.status = .running → step s = .next t → t.status ≠ .running →
    (t.status = .halted ∧ s.fetch (s.readReg .pc) = none) ∨
    (t.status = .faulted ∧ ∃ w e, s.fetch (s.readReg .pc) = some w ∧ decode w = .error e) ∨
    (t.status = .reset ∧ ∃ move rest, s.host = move :: rest ∧ (move = .abort ∨ move = .assertReset))

/-- 20_memory.md R44: every fetch of a slot returns what the host loaded, over runs of every length, from every state with no
load pending; the host's other moves, resets among them, do not write the store. -/
def Obligations.StoreIsReadOnlyDuringARun : Prop :=
  ∀ (n : Nat) (s t : State), (∀ program, HostMove.load program ∉ s.host) →
    Host.Core.run Sys2Proof.core n s = .next t → ∀ a, t.fetch a = s.fetch a

/-- 10_state.md section 5: the length of the data memory is 0 after reset and stays 0 throughout every run. -/
def Obligations.DataMemoryStaysEmpty : Prop :=
  State.reset.mem = [] ∧ ∀ (n : Nat) (s t : State), s.mem = [] → Host.Core.run Sys2Proof.core n s = .next t → t.mem = []

/-- The invariant of the machine (Safety.lean, `State.Inv`) holds right after reset. -/
def Obligations.ConsistencyHoldsAtReset : Prop := State.Inv State.reset

/-- Every step, of the CORE or of the host, keeps the invariant, from every state that meets it. -/
def Obligations.EveryStepKeepsConsistency : Prop :=
  ∀ s t : State, s.Inv → step s = .next t → t.Inv

/-! ## Reset, loading and the host -/

/-- 10_state.md R29: the reset values, and the store, which reset does not change. -/
def Obligations.ResetValues : Prop :=
  (∀ r, State.reset.readReg r = 0#8) ∧ State.reset.mem = [] ∧ State.reset.status = .reset ∧
  State.reset.faultCause = none ∧ State.reset.faultAddr = 0#8 ∧ State.reset.faultWord = 0#24 ∧
  ∀ (s : State) (rest : List HostMove), s.host = .assertReset :: rest →
    ∃ t, step s = .next t ∧ (∀ r, t.readReg r = 0#8) ∧ t.mem = [] ∧ t.status = .reset ∧ t.faultCause = none ∧
      t.faultAddr = 0#8 ∧ t.faultWord = 0#24 ∧ ∀ a, t.fetch a = s.fetch a

/-- 70_reset_and_hazards.md R129: released after an accepted load the engine runs, and after a rejected one it is FAULTED; the
first step fetches at 0x00, and an empty slot there halts the CORE with the reset context unchanged. -/
def Obligations.ReleaseFetchesAtZero : Prop :=
  ∀ s : State, s.contextIsReset → s.status = .reset → s.host = [.releaseReset] →
    (s.verdict = .ok → ∃ t, step s = .next t ∧ t.status = .running ∧ t.host = [] ∧ t.readReg .pc = 0#8 ∧
      t.contextIsReset ∧
      (s.fetch 0#8 = none → ∃ u, step t = .next u ∧ u.status = .halted ∧ u.contextIsReset) ∧
      (∀ w i, s.fetch 0#8 = some w → decode w = .ok i → step t = exec i t)) ∧
    (∀ cause idx, s.verdict = .rejected cause idx → ∃ t, step s = .next t ∧ t.status = .faulted ∧ t.faultCause = some cause)

/-- 60_exceptions.md R116: the loader reports MalformedProgram at the first bad record when that record repeats an idx or has an
idx or branch address that is not 8 digits, and the release of reset then goes straight to FAULTED(MalformedProgram) with no
instruction executed. -/
def Obligations.LoaderRejectsMalformedPrograms : Prop :=
  ∀ (s : State) (before after : List RawRecord) (r : RawRecord),
    ProgramAccepted before → MalformedAfter before r → s.status = .reset →
    s.host = [.load (before ++ r :: after), .releaseReset] →
    ∃ t, Host.Core.run Sys2Proof.core 2 s = .next t ∧ t.status = .faulted ∧ t.faultCause = some .malformedProgram ∧
      (r.idx.length = 8 → t.faultAddr = digitsWord r.idx) ∧ t.faultWord = 0#24 ∧ t.regs = s.regs ∧ t.mem = s.mem ∧
      ∀ n, Host.Core.run Sys2Proof.core n t = .next t

/-- 60_exceptions.md R117: the loader reports an immediate that is not exactly 8 digits as WidthMismatch, a width-0 one too, and
never truncates or pads it: the release of reset goes to FAULTED(WidthMismatch). No turn of the CORE records it. -/
def Obligations.LoaderRejectsWrongWidths : Prop :=
  (∀ s t : State, coreTurn s = .next t → t.faultCause = some .widthMismatch → s.faultCause = some .widthMismatch) ∧
  ∀ (s : State) (before after : List RawRecord) (r : RawRecord),
    ProgramAccepted before → ¬ MalformedAfter before r → WrongImmediateWidth r → s.status = .reset →
    s.host = [.load (before ++ r :: after), .releaseReset] →
    ∃ t, Host.Core.run Sys2Proof.core 2 s = .next t ∧ t.status = .faulted ∧ t.faultCause = some .widthMismatch ∧
      t.faultAddr = digitsWord r.idx ∧ t.faultWord = 0#24 ∧ t.regs = s.regs ∧ t.mem = s.mem

/-- 70_reset_and_hazards.md section 2, "Loading the program": an accepted program fills the slot of each record's idx with its
word, leaves every other slot empty, and the release of reset starts the run. -/
def Obligations.AcceptedProgramFillsItsSlots : Prop :=
  ∀ (s : State) (program : List RawRecord), ProgramAccepted program → s.status = .reset →
    s.host = [.load program, .releaseReset] →
    ∃ t, Host.Core.run Sys2Proof.core 2 s = .next t ∧ t.status = .running ∧ t.regs = s.regs ∧ t.mem = s.mem ∧
      (∀ r ∈ program, t.fetch (digitsWord r.idx) = some r.body.toWord) ∧
      (∀ a, (∀ r ∈ program, digitsWord r.idx ≠ a) → t.fetch a = none)

/-- While status is RUNNING no move of the host but the two that end the run writes a register or the data memory, and none
writes the store (70_reset_and_hazards.md section 2). A load leads to no next state, waiting gives the CORE its turn, and abort
and reset answer the reset context with the store kept. That abort answers RESET in one step is the model's choice (log 19), and
that a move reaches a step as the oldest of a list is another (log 1). -/
def Obligations.HostWritesNothingWhileRunning : Prop :=
  ∀ (s : State) (move : HostMove) (rest : List HostMove), s.status = .running → s.host = move :: rest →
    (∀ program t, move = .load program → step s ≠ .next t) ∧
    (∀ t, step s = .next t → t.store = s.store) ∧
    (∀ t, step s = .next t → move ≠ .abort → move ≠ .assertReset → coreTurn { s with host := rest } = .next t) ∧
    (move = .wait → step s = coreTurn { s with host := rest }) ∧
    (move = .abort ∨ move = .assertReset → ∃ t, step s = .next t ∧ t.status = .reset ∧ t.contextIsReset ∧
      t.faultCause = none ∧ t.faultAddr = 0#8 ∧ t.faultWord = 0#24 ∧ t.store = s.store ∧ t.host = rest)

/-- The moves of the host in a status that 70_reset_and_hazards.md section 2 does not list them for are refused by name; the
spec asks this for loads and reads while RUNNING (93_implementation_defined.md section 2), for the others it is the model's
choice (log 13). -/
def Obligations.HostMovesOutOfTurnAreRefused : Prop :=
  ∀ (s : State) (move : HostMove) (rest : List HostMove), s.host = move :: rest →
    (∀ program, move = .load program → s.status ≠ .reset → step s = .refused .loadOutsideReset) ∧
    (move = .releaseReset → s.status ≠ .reset → step s = .refused .releaseOutsideReset) ∧
    (move = .observe → s.status ≠ .halted → s.status ≠ .faulted → step s = .refused .observeNotDefined) ∧
    (move = .abort → s.status ≠ .running → step s = .refused .abortOutsideRunning)

/-- 10_state.md R30: the result of a run is the whole context when status is HALTED, and FAULTED gives no result. -/
def Obligations.ResultIsTheContextOfAHaltedCore : Prop :=
  ∀ (s : State) (regs : RegFile) (mem : Memory),
    (s.observation = some (.result regs mem) ↔ s.status = .halted ∧ regs = s.regs ∧ mem = s.mem) ∧
    (s.observation = some (.result regs mem) → s.safe)

/-- A branch to its own address runs for ever, whatever budget the host gives: the outcome is BudgetExceeded, never HALTED
(43_control_transfer.md section B, 60_exceptions.md section 5). The counting of the budget is the model's choice (log 16). -/
def Obligations.SelfBranchExceedsEveryBudget : Prop :=
  ∀ (n : Nat) (s : State), s.status = .running →
    s.fetch (s.readReg .pc) = some (encode (.b (s.readReg .pc))) → runWithin n s = .budgetExceeded

/-- A run that ends within a budget ends the same way under every larger one: the end is the program's, not the budget's
(60_exceptions.md section 5). The counting of the budget is the model's choice (log 16). -/
def Obligations.LargerBudgetSameEnd : Prop :=
  ∀ (n k : Nat) (s : State), runWithin n s ≠ .budgetExceeded → runWithin (n + k) s = runWithin n s

/-- The host's moves that leave the CORE's own state alone are served in the statuses that 70_reset_and_hazards.md section 2 lists
them for: `wait` answers the CORE's turn on the rest of the moves, `observe` in HALTED or FAULTED drops only the move, and `load` in
RESET changes nothing but the store and the loader's report. With no move a CORE held in RESET stays as it is. That the moves
are a list, and `wait` one of them, is the model's choice (log 1); the held reset is DEDUCED (log 14). -/
def Obligations.HostMovesInTurnAreServed : Prop :=
  (∀ (s : State) (rest : List HostMove),
    (s.host = .wait :: rest → step s = coreTurn { s with host := rest }) ∧
    (s.host = .observe :: rest → s.status = .halted ∨ s.status = .faulted → step s = .next { s with host := rest }) ∧
    (∀ program, s.host = .load program :: rest → s.status = .reset →
      ∃ t, step s = .next t ∧ t = { s with store := t.store, verdict := t.verdict, host := rest })) ∧
  (∀ s : State, s.host = [] → s.status = .reset → step s = .next s)

/-- After the step that fetches a reserved word the host observes code 3, the address pc and the word, with the frozen registers
and data memory; and it observes nothing exactly in RESET and RUNNING (60_exceptions.md sections 2 and 5). That the data memory
stands in the FAULTED view is the model's choice (log 21). -/
def Obligations.HostObservesTheFault : Prop :=
  (∀ (s : State) (w : InstrWord) (e : Reserved), s.host = [] → s.status = .running →
    s.fetch (s.readReg .pc) = some w → decode w = .error e →
    ∃ t, step s = .next t ∧ t.observation = some (.fault 3#2 (s.readReg .pc) w s.regs s.mem)) ∧
  (∀ s : State, s.observation = none ↔ s.status = .reset ∨ s.status = .running)
end

