-- ==== Sys2Proof/Laws/Decode.lean ====
section
/-! SUPPORT. The field layout, the register numbers and the steps of the decoder. -/

namespace Sys2Proof

/-- The fields of a word built from fields (30_encoding.md R48). -/
@[simp] theorem fieldsOf_wordOf (f : Fields) : fieldsOf (wordOf f) = f := by
  obtain ⟨op, a, n, m, i⟩ := f
  simp only [fieldsOf, wordOf, Fields.mk.injEq]
  refine ⟨?_, ?_, ?_, ?_, ?_⟩ <;> ext k hk <;> simp [BitVec.getElem_extractLsb'] <;> grind

/-- A word is its fields (30_encoding.md R48). -/
@[simp] theorem wordOf_fieldsOf (w : InstrWord) : wordOf (fieldsOf w) = w := by
  ext k hk
  simp only [fieldsOf, wordOf]
  grind

@[simp] theorem regOfNumber_number (r : Reg) : regOfNumber r.number = some r := by cases r <;> rfl

/-- Only a register's own number names it (30_encoding.md R50). -/
theorem number_of_regOfNumber {x : BitVec 4} {r : Reg} (h : regOfNumber x = some r) : r.number = x := by
  revert h
  revert x r
  decide

/-- Values 11 to 15 name no register (30_encoding.md R50). -/
theorem regOfNumber_eq_none {x : BitVec 4} : regOfNumber x = none ↔ 11 ≤ x.toNat := by
  revert x
  decide

/-- A destination is a register of number 0 to 8 (30_encoding.md R50). -/
theorem Reg.isDestination_iff {r : Reg} : r.isDestination = true ↔ r.number.toNat ≤ 8 := by
  cases r <;> decide

theorem Reg.isDestination_of_ne {r : Reg} (hl : r ≠ .lr) (hp : r ≠ .pc) : r.isDestination = true := by
  simp [Reg.isDestination, hl, hp]

theorem withSource_ok {x : BitVec 4} {k : Reg → Except Reserved Instr} {i : Instr} :
    withSource x k = .ok i ↔ ∃ r, regOfNumber x = some r ∧ k r = .ok i := by
  unfold withSource
  cases regOfNumber x <;> simp

theorem withDestination_ok {x : BitVec 4} {k : Reg → Except Reserved Instr} {i : Instr} :
    withDestination x k = .ok i ↔ ∃ r, regOfNumber x = some r ∧ r.isDestination = true ∧ k r = .ok i := by
  unfold withDestination
  cases regOfNumber x with
  | none => simp
  | some r => cases h : r.isDestination <;> simp [h]

theorem withZero_ok {n : Nat} {x : BitVec n} {k : Except Reserved Instr} {i : Instr} :
    withZero x k = .ok i ↔ x = 0#n ∧ k = .ok i := by
  unfold withZero
  by_cases h : x = 0#n <;> simp [h]

end Sys2Proof
end

