-- ==== Sys2Proof/Laws/State.lean ====
section
/-! SUPPORT. The fields of State after each update, one lemma a field, and reads of a register after a write. -/

namespace Sys2Proof.Machine

variable (s : State)

@[simp] theorem State.writeReg_regs (r : Reg) (v : Word) : (s.writeReg r v).regs = s.regs.write r v := rfl
@[simp] theorem State.writeReg_mem (r : Reg) (v : Word) : (s.writeReg r v).mem = s.mem := rfl
@[simp] theorem State.writeReg_status (r : Reg) (v : Word) : (s.writeReg r v).status = s.status := rfl
@[simp] theorem State.writeReg_faultCause (r : Reg) (v : Word) : (s.writeReg r v).faultCause = s.faultCause := rfl
@[simp] theorem State.writeReg_faultAddr (r : Reg) (v : Word) : (s.writeReg r v).faultAddr = s.faultAddr := rfl
@[simp] theorem State.writeReg_faultWord (r : Reg) (v : Word) : (s.writeReg r v).faultWord = s.faultWord := rfl
@[simp] theorem State.writeReg_store (r : Reg) (v : Word) : (s.writeReg r v).store = s.store := rfl
@[simp] theorem State.writeReg_verdict (r : Reg) (v : Word) : (s.writeReg r v).verdict = s.verdict := rfl
@[simp] theorem State.writeReg_host (r : Reg) (v : Word) : (s.writeReg r v).host = s.host := rfl

@[simp] theorem State.halt_regs : (s.halt).regs = s.regs := rfl
@[simp] theorem State.halt_mem : (s.halt).mem = s.mem := rfl
@[simp] theorem State.halt_status : (s.halt).status = .halted := rfl
@[simp] theorem State.halt_faultCause : (s.halt).faultCause = s.faultCause := rfl
@[simp] theorem State.halt_faultAddr : (s.halt).faultAddr = s.faultAddr := rfl
@[simp] theorem State.halt_faultWord : (s.halt).faultWord = s.faultWord := rfl
@[simp] theorem State.halt_store : (s.halt).store = s.store := rfl
@[simp] theorem State.halt_verdict : (s.halt).verdict = s.verdict := rfl
@[simp] theorem State.halt_host : (s.halt).host = s.host := rfl

@[simp] theorem State.raiseFault_regs (cause : Fault) (addr : Word) (word : InstrWord) : (s.raiseFault cause addr word).regs = s.regs := rfl
@[simp] theorem State.raiseFault_mem (cause : Fault) (addr : Word) (word : InstrWord) : (s.raiseFault cause addr word).mem = s.mem := rfl
@[simp] theorem State.raiseFault_status (cause : Fault) (addr : Word) (word : InstrWord) : (s.raiseFault cause addr word).status = .faulted := rfl
@[simp] theorem State.raiseFault_faultCause (cause : Fault) (addr : Word) (word : InstrWord) : (s.raiseFault cause addr word).faultCause = some cause := rfl
@[simp] theorem State.raiseFault_faultAddr (cause : Fault) (addr : Word) (word : InstrWord) : (s.raiseFault cause addr word).faultAddr = addr := rfl
@[simp] theorem State.raiseFault_faultWord (cause : Fault) (addr : Word) (word : InstrWord) : (s.raiseFault cause addr word).faultWord = word := rfl
@[simp] theorem State.raiseFault_store (cause : Fault) (addr : Word) (word : InstrWord) : (s.raiseFault cause addr word).store = s.store := rfl
@[simp] theorem State.raiseFault_verdict (cause : Fault) (addr : Word) (word : InstrWord) : (s.raiseFault cause addr word).verdict = s.verdict := rfl
@[simp] theorem State.raiseFault_host (cause : Fault) (addr : Word) (word : InstrWord) : (s.raiseFault cause addr word).host = s.host := rfl

@[simp] theorem State.raiseUnknown_regs (word : InstrWord) : (s.raiseUnknown word).regs = s.regs := rfl
@[simp] theorem State.raiseUnknown_mem (word : InstrWord) : (s.raiseUnknown word).mem = s.mem := rfl
@[simp] theorem State.raiseUnknown_status (word : InstrWord) : (s.raiseUnknown word).status = .faulted := rfl
@[simp] theorem State.raiseUnknown_faultCause (word : InstrWord) : (s.raiseUnknown word).faultCause = some .unknownInstructionKind := rfl
@[simp] theorem State.raiseUnknown_faultAddr (word : InstrWord) : (s.raiseUnknown word).faultAddr = s.readReg .pc := rfl
@[simp] theorem State.raiseUnknown_faultWord (word : InstrWord) : (s.raiseUnknown word).faultWord = word := rfl
@[simp] theorem State.raiseUnknown_store (word : InstrWord) : (s.raiseUnknown word).store = s.store := rfl
@[simp] theorem State.raiseUnknown_verdict (word : InstrWord) : (s.raiseUnknown word).verdict = s.verdict := rfl
@[simp] theorem State.raiseUnknown_host (word : InstrWord) : (s.raiseUnknown word).host = s.host := rfl

@[simp] theorem State.assertReset_regs : (s.assertReset).regs = RegFile.reset := rfl
@[simp] theorem State.assertReset_mem : (s.assertReset).mem = [] := rfl
@[simp] theorem State.assertReset_status : (s.assertReset).status = .reset := rfl
@[simp] theorem State.assertReset_faultCause : (s.assertReset).faultCause = none := rfl
@[simp] theorem State.assertReset_faultAddr : (s.assertReset).faultAddr = 0#8 := rfl
@[simp] theorem State.assertReset_faultWord : (s.assertReset).faultWord = 0#24 := rfl
@[simp] theorem State.assertReset_store : (s.assertReset).store = s.store := rfl
@[simp] theorem State.assertReset_verdict : (s.assertReset).verdict = s.verdict := rfl
@[simp] theorem State.assertReset_host : (s.assertReset).host = s.host := rfl

@[simp] theorem State.loadedAtPc_regs (word : InstrWord) : (s.loadedAtPc word).regs = s.regs := rfl
@[simp] theorem State.loadedAtPc_mem (word : InstrWord) : (s.loadedAtPc word).mem = s.mem := rfl
@[simp] theorem State.loadedAtPc_status (word : InstrWord) : (s.loadedAtPc word).status = .running := rfl
@[simp] theorem State.loadedAtPc_faultCause (word : InstrWord) : (s.loadedAtPc word).faultCause = s.faultCause := rfl
@[simp] theorem State.loadedAtPc_faultAddr (word : InstrWord) : (s.loadedAtPc word).faultAddr = s.faultAddr := rfl
@[simp] theorem State.loadedAtPc_faultWord (word : InstrWord) : (s.loadedAtPc word).faultWord = s.faultWord := rfl
@[simp] theorem State.loadedAtPc_store (word : InstrWord) : (s.loadedAtPc word).store = Store.put s.store (s.readReg .pc).toNat word := rfl
@[simp] theorem State.loadedAtPc_verdict (word : InstrWord) : (s.loadedAtPc word).verdict = s.verdict := rfl
@[simp] theorem State.loadedAtPc_host (word : InstrWord) : (s.loadedAtPc word).host = [] := rfl

/-- A register written reads back what was written (00_scope.md R7). -/
@[simp] theorem State.readReg_writeReg_same (r : Reg) (v : Word) : (s.writeReg r v).readReg r = v := by
  cases r <;> rfl

/-- No other register changes (00_scope.md R7). -/
theorem State.readReg_writeReg_ne {q r : Reg} (v : Word) (h : q ≠ r) : (s.writeReg r v).readReg q = s.readReg q := by
  cases q <;> cases r <;> first | exact absurd rfl h | rfl

theorem State.readReg_writeReg (q r : Reg) (v : Word) :
    (s.writeReg r v).readReg q = if q = r then v else s.readReg q := by
  split
  · next h => subst h; exact s.readReg_writeReg_same _ v
  · next h => exact s.readReg_writeReg_ne v h

/-- What a register reads as depends on the register file alone. -/
theorem State.readReg_congr {s t : State} (h : t.regs = s.regs) (r : Reg) : t.readReg r = s.readReg r := by
  simp only [State.readReg, h]

/-- What the host reads of the data memory depends on the data memory alone. -/
theorem State.memByte_congr {s t : State} (h : t.mem = s.mem) (position : Nat) : t.memByte position = s.memByte position := by
  simp only [State.memByte, h]

/-- What a fetch finds depends on the store alone. -/
theorem State.fetch_congr {s t : State} (h : t.store = s.store) (a : Word) : t.fetch a = s.fetch a := by
  simp only [State.fetch, h]

@[simp] theorem State.halt_readReg (r : Reg) : s.halt.readReg r = s.readReg r := rfl
@[simp] theorem State.raiseFault_readReg (cause : Fault) (addr : Word) (word : InstrWord) (r : Reg) :
    (s.raiseFault cause addr word).readReg r = s.readReg r := rfl
@[simp] theorem State.raiseUnknown_readReg (word : InstrWord) (r : Reg) :
    (s.raiseUnknown word).readReg r = s.readReg r := rfl
@[simp] theorem State.assertReset_readReg (r : Reg) : s.assertReset.readReg r = 0#8 := by cases r <;> rfl
@[simp] theorem State.loadedAtPc_readReg (word : InstrWord) (r : Reg) : (s.loadedAtPc word).readReg r = s.readReg r := rfl

end Sys2Proof.Machine
end

