-- ==== Sys2Proof/Laws/Memory.lean ====
section
/-! SUPPORT. The instruction store and the data memory: reading after writing, and that every operation keeps the canonical
form. -/

namespace Sys2Proof.Machine

/-- A slot written reads back its word. -/
theorem Store.slot_put_same (st : Store) (a : Nat) (w : InstrWord) : Store.slot (Store.put st a w) a = some w := by
  induction st with
  | nil => simp [Store.put, Store.slot]
  | cons x rest ih =>
    obtain ⟨k, v⟩ := x
    by_cases h1 : a < k
    · simp [Store.put, Store.slot, h1]
    · by_cases h2 : a = k
      · simp [Store.put, Store.slot, h2]
      · simp [Store.put, Store.slot, h1, h2, ih, Ne.symm h2]

/-- Writing one slot leaves every other slot alone. -/
theorem Store.slot_put_ne (st : Store) {a b : Nat} (w : InstrWord) (h : b ≠ a) :
    Store.slot (Store.put st a w) b = Store.slot st b := by
  induction st with
  | nil => simp [Store.put, Store.slot, Ne.symm h]
  | cons x rest ih =>
    obtain ⟨k, v⟩ := x
    by_cases h1 : a < k
    · simp [Store.put, Store.slot, h1, Ne.symm h]
    · by_cases h2 : a = k
      · simp [Store.put, Store.slot, h2, h2 ▸ Ne.symm h]
      · simp [Store.put, Store.slot, h1, h2, ih]

/-- The addresses after a write are the written one and those before it. -/
theorem Store.mem_put (st : Store) (a : Nat) (w : InstrWord) {x : Nat × InstrWord} (h : x ∈ Store.put st a w) :
    x = (a, w) ∨ x ∈ st := by
  induction st with
  | nil => simpa [Store.put] using h
  | cons y rest ih =>
    obtain ⟨k, v⟩ := y
    simp only [Store.put] at h
    split at h
    · simpa using h
    · split at h
      · simp only [List.mem_cons] at h ⊢
        exact h.imp_right .inr
      · simp only [List.mem_cons] at h ⊢
        rcases h with h | h
        · exact .inr (.inl h)
        · exact (ih h).imp_right .inr

/-- Writing a slot keeps the addresses strictly rising and within the 256 slots. -/
theorem Store.put_wf {st : Store} (hwf : Store.wf st) {a : Nat} (w : InstrWord) (ha : a < 256) :
    Store.wf (Store.put st a w) := by
  refine ⟨?_, fun x hx => ?_⟩
  · have hs := hwf.1
    clear hwf
    induction st with
    | nil => simp [Store.put]
    | cons y rest ih =>
      obtain ⟨k, v⟩ := y
      rw [List.pairwise_cons] at hs
      simp only [Store.put]
      split
      · next h1 =>
        refine List.pairwise_cons.2 ⟨fun x hx => ?_, List.pairwise_cons.2 hs⟩
        rcases List.mem_cons.1 hx with rfl | hx
        · exact h1
        · exact Nat.lt_trans h1 (hs.1 x hx)
      · split
        · next h1 h2 => subst h2; exact List.pairwise_cons.2 hs
        · next h1 h2 =>
          refine List.pairwise_cons.2 ⟨fun x hx => ?_, ih hs.2⟩
          rcases Store.mem_put rest a w hx with rfl | hx
          · exact Nat.lt_of_le_of_ne (Nat.le_of_not_lt h1) (Ne.symm h2)
          · exact hs.1 x hx
  · rcases Store.mem_put st a w hx with rfl | hx
    · exact ha
    · exact hwf.2 x hx

theorem Store.nil_wf : Store.wf [] := ⟨List.Pairwise.nil, fun _ h => nomatch h⟩

/-- The store the loader writes is canonical (70_reset_and_hazards.md R131). -/
theorem placeRecords_wf (program : List RawRecord) : Store.wf (placeRecords program) := by
  induction program with
  | nil => exact Store.nil_wf
  | cons r rest ih => exact Store.put_wf ih _ (digitsWord r.idx).isLt

/-- The empty data memory is canonical whatever MEMCAP is; no operation but reset writes the data memory. -/
theorem Memory.nil_wf : Memory.wf [] := ⟨rfl, Nat.zero_le _⟩

/-- Every operation that writes the store keeps its form, and State.reset has it. -/
theorem State.loadProgram_store_wf (s : State) (program : List RawRecord) : Store.wf (s.loadProgram program).store := by
  simp only [State.loadProgram]
  split
  · exact placeRecords_wf program
  · exact Store.nil_wf

theorem State.loadedAtPc_store_wf {s : State} (h : Store.wf s.store) (word : InstrWord) :
    Store.wf (s.loadedAtPc word).store := Store.put_wf h word (s.readReg .pc).isLt

theorem State.loadProgram_mem (s : State) (program : List RawRecord) : (s.loadProgram program).mem = s.mem := by
  simp only [State.loadProgram]
  split <;> rfl

/-- The fetch after a word is put at pc finds that word (41_sequencing.md R81). -/
theorem State.loadedAtPc_fetch (s : State) (word : InstrWord) :
    (s.loadedAtPc word).fetch (s.readReg .pc) = some word := Store.slot_put_same _ _ word

theorem State.reset_mem_wf : Memory.wf State.reset.mem := Memory.nil_wf

theorem State.reset_store_wf : Store.wf State.reset.store := Store.nil_wf

end Sys2Proof.Machine
end

