-- ==== Sys2Proof/Laws/Ops.lean ====
section
/-! SUPPORT. What each shared operation can do, said once: the write-back and the ends of an instruction, the taken fault,
and the cases of a step. -/

namespace Sys2Proof.Machine

/-- A change of the register file alone, outside `rs`, is `SameExcept rs`. -/
theorem SameExcept.of_regs {rs : List Reg} {s : State} {regs : RegFile}
    (h : ∀ r, r ∉ rs → State.readReg { s with regs := regs } r = s.readReg r) : SameExcept rs s { s with regs := regs } :=
  ⟨h, fun _ => rfl, rfl, fun _ => rfl, rfl, rfl, rfl, rfl, rfl, rfl, rfl⟩

/-- Taking a fault (60_exceptions.md R113). -/
theorem State.raiseFault_taken (s : State) (cause : Fault) (addr : Word) (word : InstrWord) :
    FaultTaken cause addr word s (s.raiseFault cause addr word) :=
  ⟨rfl, rfl, rfl, rfl, fun _ => rfl, fun _ => rfl, rfl, rfl, rfl, rfl⟩

/-- The write-back of a data-processing instruction (41_sequencing.md R88). -/
theorem State.writeBack_data (s : State) {rd : Reg} (v p : Word) (h : rd.isDestination = true) :
    (s.writeBack (some (rd, v)) none p).readReg rd = v ∧ (s.writeBack (some (rd, v)) none p).readReg .pc = p ∧
      SameExcept [rd, .pc] s (s.writeBack (some (rd, v)) none p) := by
  have hpc : rd ≠ .pc := by rintro rfl; exact absurd h (by decide)
  refine ⟨?_, ?_, SameExcept.of_regs fun r hr => ?_⟩
  · change ((s.writeReg rd v).writeReg .pc p).readReg rd = v
    rw [State.readReg_writeReg_ne _ _ hpc, State.readReg_writeReg_same]
  · exact State.readReg_writeReg_same _ _ _
  · simp only [List.mem_cons, List.not_mem_nil, or_false, not_or] at hr
    change ((s.writeReg rd v).writeReg .pc p).readReg r = s.readReg r
    rw [State.readReg_writeReg_ne _ _ hr.2, State.readReg_writeReg_ne _ _ hr.1]

/-- The write-back of a link (41_sequencing.md R88). -/
theorem State.writeBack_link (s : State) (v p : Word) :
    (s.writeBack none (some v) p).readReg .lr = v ∧ (s.writeBack none (some v) p).readReg .pc = p ∧
      SameExcept [.lr, .pc] s (s.writeBack none (some v) p) := by
  refine ⟨rfl, rfl, SameExcept.of_regs fun r hr => ?_⟩
  simp only [List.mem_cons, List.not_mem_nil, or_false, not_or] at hr
  change ((s.writeReg .lr v).writeReg .pc p).readReg r = s.readReg r
  rw [State.readReg_writeReg_ne _ _ hr.2, State.readReg_writeReg_ne _ _ hr.1]

/-- The write-back of pc alone (41_sequencing.md R88). -/
theorem State.writeBack_pc (s : State) (p : Word) :
    (s.writeBack none none p).readReg .pc = p ∧ SameExcept [.pc] s (s.writeBack none none p) := by
  refine ⟨rfl, SameExcept.of_regs fun r hr => ?_⟩
  simp only [List.mem_cons, List.not_mem_nil, or_false] at hr
  exact State.readReg_writeReg_ne s p hr

/-- The end of a data-processing instruction with a legal destination. -/
theorem State.retireData_next (s : State) (i : Instr) {rd : Reg} (v : Word) (h : rd.isDestination = true) :
    ∃ t, s.retireData i rd v = .next t ∧ t.readReg rd = v ∧ t.readReg .pc = s.pcInc ∧ SameExcept [rd, .pc] s t :=
  ⟨_, by simp [State.retireData, h], s.writeBack_data v s.pcInc h⟩

/-- The end of a data-processing record with a reserved destination (30_encoding.md R58, R61). -/
theorem State.retireData_reserved (s : State) (i : Instr) {rd : Reg} (v : Word) (h : rd.isDestination = false) :
    s.retireData i rd v = .next (s.raiseUnknown (encode i)) := by
  simp [State.retireData, h]

/-- The end of an instruction that writes pc alone. -/
theorem State.retirePc_next (s : State) (p : Word) :
    ∃ t, s.retirePc p = .next t ∧ t.readReg .pc = p ∧ SameExcept [.pc] s t := ⟨_, rfl, s.writeBack_pc p⟩

/-- Whatever a data-processing instruction answers is a next state: its effect, or the fault. -/
theorem State.retireData_cases (s : State) (i : Instr) (rd : Reg) (v : Word) :
    (rd.isDestination = true ∧ s.retireData i rd v = .next (s.writeBack (some (rd, v)) none s.pcInc)) ∨
      (rd.isDestination = false ∧ s.retireData i rd v = .next (s.raiseUnknown (encode i))) := by
  cases h : rd.isDestination
  · exact .inr ⟨rfl, s.retireData_reserved i v h⟩
  · exact .inl ⟨rfl, by simp [State.retireData, h]⟩

/-- What a turn of the CORE can be (41_sequencing.md R90, R91). -/
theorem coreTurn_cases (s : State) :
    (s.status ≠ .running ∧ coreTurn s = .next s) ∨
    (s.status = .running ∧ s.fetch (s.readReg .pc) = none ∧ coreTurn s = .next s.halt) ∨
    (∃ w e, s.status = .running ∧ s.fetch (s.readReg .pc) = some w ∧ decode w = .error e ∧
      coreTurn s = .next (s.raiseUnknown w)) ∨
    (∃ w i, s.status = .running ∧ s.fetch (s.readReg .pc) = some w ∧ decode w = .ok i ∧ coreTurn s = exec i s) := by
  unfold coreTurn
  split
  · next hs =>
    unfold engineStep
    cases hf : s.fetch (s.readReg .pc) with
    | none => exact .inr (.inl ⟨hs, rfl, rfl⟩)
    | some w =>
      cases hd : decode w with
      | error e => exact .inr (.inr (.inl ⟨w, e, hs, rfl, hd, by simp only [hd]⟩))
      | ok i => exact .inr (.inr (.inr ⟨w, i, hs, rfl, hd, by simp only [hd]⟩))
  · next hs => exact .inl ⟨by simp [hs], rfl⟩
  · next hs => exact .inl ⟨by simp [hs], rfl⟩
  · next hs => exact .inl ⟨by simp [hs], rfl⟩

/-- What a move of the host that is not refused can be (70_reset_and_hazards.md R132). -/
theorem hostTurn_cases {move : HostMove} {s t : State} (h : hostTurn move s = .next t) :
    (∃ program, move = .load program ∧ s.status = .reset ∧ t = s.loadProgram program) ∨
    (move = .releaseReset ∧ s.status = .reset ∧ t = s.releaseReset) ∨
    (move = .wait ∧ coreTurn s = .next t) ∨
    (move = .observe ∧ (s.status = .halted ∨ s.status = .faulted) ∧ t = s) ∨
    ((move = .abort ∧ s.status = .running ∨ move = .assertReset) ∧ t = s.assertReset) := by
  cases move with
  | load program =>
    simp only [hostTurn] at h
    split at h
    · next hs => cases h; exact .inl ⟨program, rfl, hs, rfl⟩
    · cases h
  | releaseReset =>
    simp only [hostTurn] at h
    split at h
    · next hs => cases h; exact .inr (.inl ⟨rfl, hs, rfl⟩)
    · cases h
  | wait => exact .inr (.inr (.inl ⟨rfl, h⟩))
  | observe =>
    simp only [hostTurn] at h
    split at h
    · next hs => cases h; exact .inr (.inr (.inr (.inl ⟨rfl, hs, rfl⟩)))
    · cases h
  | abort =>
    simp only [hostTurn] at h
    split at h
    · next hs => cases h; exact .inr (.inr (.inr (.inr ⟨.inl ⟨rfl, hs⟩, rfl⟩)))
    · cases h
  | assertReset => cases h; exact .inr (.inr (.inr (.inr ⟨.inr rfl, rfl⟩)))

/-- A step is a turn of the CORE or the oldest move of the host (log 1). -/
theorem step_cases (s : State) :
    (s.host = [] ∧ step s = coreTurn s) ∨
      (∃ move rest, s.host = move :: rest ∧ step s = hostTurn move { s with host := rest }) := by
  unfold step machineStep
  cases hh : s.host with
  | nil => exact .inl ⟨rfl, rfl⟩
  | cons move rest => exact .inr ⟨move, rest, rfl, rfl⟩

end Sys2Proof.Machine
end

