-- ==== Sys2Proof/Laws/PerInstr.lean ====
section
/-! SUPPORT. The per-instruction family RowMatch: the word of every record has the fixed bits of its row of 30_encoding.md
R52. -/

namespace Sys2Proof.Laws

/-- The fixed bits of a word, field by field (30_encoding.md R48). -/
theorem wordOf_and (f g : Fields) :
    wordOf f &&& wordOf g =
      wordOf { op := f.op &&& g.op, a := f.a &&& g.a, n := f.n &&& g.n, m := f.m &&& g.m, i := f.i &&& g.i } := by
  simp only [wordOf]
  ext k hk
  simp only [BitVec.getElem_and, BitVec.getElem_append]
  grind

namespace RowMatch

/-- Some row of the table with the record's mnemonic has its fixed bits in the record's word (30_encoding.md R52). -/
def Statement (i : Instr) : Prop :=
  ∃ row ∈ opcodeTable, row.mnemonic = i.mnemonic ∧ encode i &&& row.mask = row.pattern

/-- A row whose mask and pattern are given field by field matches a record whose fields have them. -/
theorem of_fields {i : Instr} (row : TableRow) (hrow : row ∈ opcodeTable) (hm : row.mnemonic = i.mnemonic) (g : Fields)
    (hg : row.mask = wordOf g)
    (h : wordOf { op := (encodeFields i).op &&& g.op, a := (encodeFields i).a &&& g.a, n := (encodeFields i).n &&& g.n,
                  m := (encodeFields i).m &&& g.m, i := (encodeFields i).i &&& g.i } = row.pattern) : Statement i :=
  ⟨row, hrow, hm, by rw [hg, encode, wordOf_and, h]⟩

theorem addReg (rd rn rm : Reg) : Statement (.addReg rd rn rm) :=
  of_fields (opcodeTable[0]'(by decide)) (List.getElem_mem _) rfl
    { op := 15#4, a := 0#4, n := 0#4, m := 0#4, i := 255#8 } (by decide)
    (by simp [encodeFields]; rfl)

theorem addImm (rd rn : Reg) (imm : Word) : Statement (.addImm rd rn imm) :=
  of_fields (opcodeTable[1]'(by decide)) (List.getElem_mem _) rfl
    { op := 15#4, a := 0#4, n := 0#4, m := 15#4, i := 0#8 } (by decide)
    (by simp [encodeFields]; rfl)

theorem subReg (rd rn rm : Reg) : Statement (.subReg rd rn rm) :=
  of_fields (opcodeTable[2]'(by decide)) (List.getElem_mem _) rfl
    { op := 15#4, a := 0#4, n := 0#4, m := 0#4, i := 255#8 } (by decide)
    (by simp [encodeFields]; rfl)

theorem subImm (rd rn : Reg) (imm : Word) : Statement (.subImm rd rn imm) :=
  of_fields (opcodeTable[3]'(by decide)) (List.getElem_mem _) rfl
    { op := 15#4, a := 0#4, n := 0#4, m := 15#4, i := 0#8 } (by decide)
    (by simp [encodeFields]; rfl)

theorem movReg (rd rm : Reg) : Statement (.movReg rd rm) :=
  of_fields (opcodeTable[4]'(by decide)) (List.getElem_mem _) rfl
    { op := 15#4, a := 0#4, n := 15#4, m := 0#4, i := 255#8 } (by decide)
    (by simp [encodeFields]; rfl)

theorem movImm (rd : Reg) (imm : Word) : Statement (.movImm rd imm) :=
  of_fields (opcodeTable[5]'(by decide)) (List.getElem_mem _) rfl
    { op := 15#4, a := 0#4, n := 15#4, m := 15#4, i := 0#8 } (by decide)
    (by simp [encodeFields]; rfl)

theorem label : Statement .label :=
  of_fields (opcodeTable[6]'(by decide)) (List.getElem_mem _) rfl
    { op := 15#4, a := 15#4, n := 15#4, m := 15#4, i := 255#8 } (by decide)
    (by simp [encodeFields]; rfl)

theorem cbz (rn : Reg) (address : Word) : Statement (.cbz rn address) :=
  of_fields (opcodeTable[7]'(by decide)) (List.getElem_mem _) rfl
    { op := 15#4, a := 15#4, n := 0#4, m := 15#4, i := 0#8 } (by decide)
    (by simp [encodeFields]; rfl)

theorem cbnz (rn : Reg) (address : Word) : Statement (.cbnz rn address) :=
  of_fields (opcodeTable[8]'(by decide)) (List.getElem_mem _) rfl
    { op := 15#4, a := 15#4, n := 0#4, m := 15#4, i := 0#8 } (by decide)
    (by simp [encodeFields]; rfl)

theorem bl (address : Word) : Statement (.bl address) :=
  of_fields (opcodeTable[9]'(by decide)) (List.getElem_mem _) rfl
    { op := 15#4, a := 15#4, n := 15#4, m := 15#4, i := 0#8 } (by decide)
    (by simp [encodeFields]; rfl)

theorem b (address : Word) : Statement (.b address) :=
  of_fields (opcodeTable[10]'(by decide)) (List.getElem_mem _) rfl
    { op := 15#4, a := 15#4, n := 15#4, m := 15#4, i := 0#8 } (by decide)
    (by simp [encodeFields]; rfl)

theorem br (rn : Reg) : Statement (.br rn) :=
  of_fields (opcodeTable[11]'(by decide)) (List.getElem_mem _) rfl
    { op := 15#4, a := 15#4, n := 0#4, m := 15#4, i := 255#8 } (by decide)
    (by simp [encodeFields]; rfl)

end RowMatch

end Sys2Proof.Laws
end

