-- ==== Sys2Proof/Tests/Slice0.lean ====
section
/-! SUPPORT. Tests: ill-formed records, words written out from 30_encoding.md, one-step vectors of 95_test_vectors.md, and a
witness for the hypotheses of every statement. Expected values are the spec's. -/

namespace Sys2Proof.Tests

open Sys2Proof.Machine

/-- A running CORE at `pc` with some registers set and one word in the slot at pc. -/
def ready (pc : Word) (sets : List (Reg × Word)) (word : InstrWord) : State :=
  (sets.foldl (fun s x => s.writeReg x.1 x.2) (State.reset.writeReg .pc pc)).loadedAtPc word

/-- The registers read after a step that answers a next state. -/
def regsAfter (o : Host.Outcome State Fault Refusal) (rs : List Reg) : Option (List Word) :=
  match o with
  | .next t => some (rs.map t.readReg)
  | .fault _ => none
  | .refused _ => none

/-- What the host sees of a step's next state: the codes of status and fault record, and pc. -/
def seenAfter (o : Host.Outcome State Fault Refusal) : Option (BitVec 2 × BitVec 2 × Word × InstrWord × Word) :=
  match o with
  | .next t => some (t.status.code, faultCode t.faultCause, t.faultAddr, t.faultWord, t.readReg .pc)
  | .fault _ => none
  | .refused _ => none

/-! ## WellFormed: each check refuses an ill-formed term (30_encoding.md R58 case 3) -/

theorem test_wf_addReg : (Instr.addReg .lr .r0 .r0).wf = false ∧ (Instr.addReg .pc .r0 .r0).wf = false := by decide
theorem test_wf_addImm : (Instr.addImm .lr .r0 1#8).wf = false ∧ (Instr.addImm .pc .r0 1#8).wf = false := by decide
theorem test_wf_subReg : (Instr.subReg .lr .r0 .r0).wf = false ∧ (Instr.subReg .pc .r0 .r0).wf = false := by decide
theorem test_wf_subImm : (Instr.subImm .lr .r0 1#8).wf = false ∧ (Instr.subImm .pc .r0 1#8).wf = false := by decide
theorem test_wf_movReg : (Instr.movReg .lr .r0).wf = false ∧ (Instr.movReg .pc .r0).wf = false := by decide
theorem test_wf_movImm : (Instr.movImm .lr 1#8).wf = false ∧ (Instr.movImm .pc 1#8).wf = false := by decide
theorem test_wf_sources_free : (Instr.addReg .sp .lr .pc).wf = true ∧ (Instr.br .pc).wf = true := by decide

/-! ## Decoding: words written out bit by bit from the patterns of 30_encoding.md R52 -/

theorem test_decode_addReg : decode 0b0000_0101_1010_1010_00000000#24 = .ok (.addReg .r5 .pc .pc) := by decide
theorem test_decode_addImm : decode 0b0001_0011_0011_0000_11111111#24 = .ok (.addImm .r3 .r3 0xFF#8) := by decide
theorem test_decode_subReg : decode 0b0010_0110_0110_0111_00000000#24 = .ok (.subReg .r6 .r6 .r7) := by decide
theorem test_decode_subImm : decode 0b0011_0010_1001_0000_10000001#24 = .ok (.subImm .r2 .lr 0x81#8) := by decide
theorem test_decode_movReg : decode 0b0100_1000_0000_1001_00000000#24 = .ok (.movReg .sp .lr) := by decide
theorem test_decode_movImm : decode 0b0101_0111_0000_0000_11111111#24 = .ok (.movImm .r7 0xFF#8) := by decide
theorem test_decode_label : decode 0b0110_0000_0000_0000_00000000#24 = .ok .label := by decide
theorem test_decode_cbz : decode 0b0111_0000_1010_0000_11111111#24 = .ok (.cbz .pc 0xFF#8) := by decide
theorem test_decode_cbnz : decode 0b0111_0001_1000_0000_00100000#24 = .ok (.cbnz .sp 0x20#8) := by decide
theorem test_decode_bl : decode 0b1000_0000_0000_0000_00010000#24 = .ok (.bl 0x10#8) := by decide
theorem test_decode_b : decode 0b1001_0000_0000_0000_11111111#24 = .ok (.b 0xFF#8) := by decide
theorem test_decode_br : decode 0b1010_0000_1001_0000_00000000#24 = .ok (.br .lr) := by decide

/-- 95_test_vectors.md T21, T22, T24, T25. -/
theorem test_decode_T21_T25 :
    decode 0x000000#24 = .ok (.addReg .r0 .r0 .r0) ∧ decode 0x080000#24 = .ok (.addReg .sp .r0 .r0) ∧
    decode 0x000A00#24 = .ok (.addReg .r0 .r0 .pc) ∧ decode 0xA0A000#24 = .ok (.br .pc) := by decide

/-- 95_test_vectors.md T27, T28, T29, T29a. -/
theorem test_decode_reserved :
    decode 0xB00000#24 = .error .opcode ∧ decode 0xF00000#24 = .error .opcode ∧
    decode 0x090000#24 = .error .destinationRegister ∧ decode 0x5F0000#24 = .error .destinationRegister ∧
    decode 0x00B000#24 = .error .sourceRegister ∧ decode 0x0000FF#24 = .error .shouldBeZero ∧
    decode 0x471000#24 = .error .shouldBeZero ∧ decode 0x40A000#24 = .error .shouldBeZero ∧
    decode 0x600001#24 = .error .shouldBeZero ∧ decode 0xA09001#24 = .error .shouldBeZero ∧
    decode 0x800100#24 = .error .shouldBeZero ∧ decode 0x720000#24 = .error .conditionType ∧
    decode 0x7A0000#24 = .error .conditionType := by decide

theorem test_decodeTableWord : decodeTableWord 24 0x311001 = some (.subImm .r1 .r1 1#8) ∧
    decodeTableWord 24 0x490000 = none := by decide

/-- The words of 95_test_vectors.md P1 and P6. -/
theorem test_encode : encode (.bl 0x04#8) = 0x800004#24 ∧ encode (.br .lr) = 0xA09000#24 ∧
    encode (.movReg .lr .r0) = 0x490000#24 := by decide

/-! ## fixed_width_alu: 95_test_vectors.md T4, T6, T7, T9 to T14, T18 -/

theorem test_alu_add : add 0x80#8 0x80#8 = ⟨0x00#8, true⟩ ∧ add 0xFF#8 0xFF#8 = ⟨0xFE#8, true⟩ ∧
    add 0xA5#8 0x5A#8 = ⟨0xFF#8, false⟩ := by decide
theorem test_alu_sub : sub 0x05#8 0x03#8 = ⟨0x02#8, true⟩ ∧ sub 0x03#8 0x05#8 = ⟨0xFE#8, false⟩ ∧
    sub 0x05#8 0x05#8 = ⟨0x00#8, true⟩ ∧ sub 0x00#8 0x00#8 = ⟨0x00#8, false⟩ ∧ sub 0x01#8 0xFF#8 = ⟨0x02#8, false⟩ := by
  decide
theorem test_alu_twos : twos 0x00#8 = 0x00#8 ∧ twos 0x80#8 = 0x80#8 ∧ twos 0x06#8 = 0xFA#8 ∧ ones 0xA5#8 = 0x5A#8 := by
  decide

/-! ## One step each: 95_test_vectors.md T40 to T60 -/

theorem test_addReg_T41 : regsAfter (step (ready 0x10#8 [(.r0, 0x81#8)] 0x000000#24)) [.r0, .pc] = some [0x02#8, 0x11#8] := by
  decide
theorem test_addReg_T42 : regsAfter (step (ready 0x10#8 [] 0x05AA00#24)) [.r5, .pc] = some [0x20#8, 0x11#8] := by decide
theorem test_addImm_T43 : regsAfter (step (ready 0x10#8 [(.r3, 0xFF#8)] 0x133001#24)) [.r3, .pc] = some [0x00#8, 0x11#8] := by
  decide
theorem test_subReg_T45 :
    regsAfter (step (ready 0x10#8 [(.r1, 0x03#8), (.r2, 0x05#8)] 0x201200#24)) [.r0, .pc] = some [0xFE#8, 0x11#8] := by decide
theorem test_subImm_T47 : regsAfter (step (ready 0x10#8 [] 0x311001#24)) [.r1, .pc] = some [0xFF#8, 0x11#8] := by decide
theorem test_movReg_T50 : regsAfter (step (ready 0x10#8 [] 0x440A00#24)) [.r4, .pc] = some [0x10#8, 0x11#8] := by decide
theorem test_movReg_T51 :
    regsAfter (step (ready 0x10#8 [(.lr, 0x33#8)] 0x480900#24)) [.sp, .lr] = some [0x33#8, 0x33#8] := by decide
theorem test_movImm_T53 : regsAfter (step (ready 0x10#8 [] 0x5700FF#24)) [.r7, .pc] = some [0xFF#8, 0x11#8] := by decide
theorem test_label_wraps : regsAfter (step (ready 0xFF#8 [(.r0, 0x44#8)] 0x600000#24)) [.r0, .pc] = some [0x44#8, 0x00#8] := by
  decide
theorem test_cbz_T30 : regsAfter (step (ready 0x03#8 [] 0x701007#24)) [.pc] = some [0x07#8] := by decide
theorem test_cbz_T32 : regsAfter (step (ready 0x03#8 [(.r1, 0x80#8)] 0x701007#24)) [.pc] = some [0x04#8] := by decide
theorem test_cbnz_T34 : regsAfter (step (ready 0x02#8 [(.r0, 0x01#8)] 0x710005#24)) [.pc] = some [0x05#8] := by decide
theorem test_cbnz_T35 : regsAfter (step (ready 0x02#8 [] 0x710005#24)) [.pc] = some [0x03#8] := by decide
theorem test_bl_T38 : regsAfter (step (ready 0xFF#8 [] 0x800010#24)) [.lr, .pc] = some [0x00#8, 0x10#8] := by decide
theorem test_b_T57 : regsAfter (step (ready 0x06#8 [(.lr, 0x03#8)] 0x900002#24)) [.pc, .lr] = some [0x02#8, 0x03#8] := by decide
theorem test_br_T58 : regsAfter (step (ready 0x06#8 [(.lr, 0x03#8)] 0xA09000#24)) [.pc, .lr] = some [0x03#8, 0x03#8] := by decide

/-! ## control_flow_engine and host: 95_test_vectors.md T55, T61 to T65, P7 -/

theorem test_reserved_T55 :
    seenAfter (step (ready 0x10#8 [(.r0, 0x01#8)] 0x490000#24)) = some (3#2, 3#2, 0x10#8, 0x490000#24, 0x10#8) := by decide
theorem test_miss_T61 :
    seenAfter (step { State.reset with status := .running }) = some (2#2, 0#2, 0#8, 0#24, 0#8) := by decide
theorem test_release_T63 :
    seenAfter (step { State.reset with host := [.releaseReset] }) = some (1#2, 0#2, 0#8, 0#24, 0#8) := by decide
theorem test_budget_T64 : runWithin 3 (ready 0x00#8 [] 0x900000#24) = .budgetExceeded := by decide
theorem test_reset_T65 :
    seenAfter (step { ready 0x10#8 [] 0x600000#24 with status := .halted, host := [.assertReset] }) =
      some (0#2, 0#2, 0#8, 0#24, 0#8) := by decide

/-- The eight digits of 0x00. -/
def zeros : Digits := List.replicate 8 false

/-- P7: the second record repeats `idx` 0x00. -/
theorem test_load_P7 :
    (State.reset.loadProgram [⟨zeros, .movImm .r0 zeros⟩, ⟨zeros, .movImm .r1 zeros⟩]).verdict =
      .rejected .malformedProgram 0#8 := by decide

/-- 60_exceptions.md R117: an immediate of seven digits is not padded. -/
theorem test_load_width : (State.reset.loadProgram [⟨zeros, .movImm .r0 (zeros.drop 1)⟩]).verdict =
    .rejected .widthMismatch 0#8 := by decide

theorem test_withFetchWord :
    regsAfter (step (State.reset.withFetchWord 24 0x500002)) [.r0, .pc] = some [0x02#8, 0x01#8] := by decide

/-! ## Witnesses: the hypotheses of every statement are met together -/

/-- A LABEL at pc, the CORE running. -/
def atLabel : State := ready 0x10#8 [] 0x600000#24

/-- A reserved word at pc, the CORE running. -/
def atReserved : State := ready 0x10#8 [] 0x490000#24

/-- Running at an empty slot. -/
def atEmpty : State := { State.reset with status := .running }

theorem witness_SubtractionIsSubtractionModulo : 0 < 1 ∧ 0 < 8 := by decide
theorem witness_AluRoundTripIdentityAndCancellation : 0 < 1 ∧ 0 < 8 := by decide
theorem witness_RippleCarryAddsDigitByDigit : 0 < 8 ∧ 7 < 8 := by decide
theorem witness_OnesComplementFlipsEveryDigit : 0 < 8 ∧ 7 < 8 := by decide
theorem witness_DecodeOfEncodeIsTheRecord : (Instr.addImm .sp .pc 0xFF#8).wf = true ∧ (Instr.br .r0).wf = true := by decide
theorem witness_EncodeOfDecodeIsTheWord : decode 0x38A0FF#24 = .ok (.subImm .sp .pc 0xFF#8) := by decide
theorem witness_DecoderFollowsTheMatchMaskTable_row :
    ∃ row ∈ opcodeTable, row.selects 0x08AA00#24 = true := by decide
theorem witness_DecoderFollowsTheMatchMaskTable_none :
    (∀ row ∈ opcodeTable, row.selects 0x490000#24 = false) ∧ atReserved.host = [] ∧ atReserved.status = .running ∧
      atReserved.fetch (atReserved.readReg .pc) = some 0x490000#24 := by decide
theorem witness_NoWordHasTheFixedBitsOfTwoRows :
    ∃ row ∈ opcodeTable, 0x7100FF#24 &&& row.mask = row.pattern := by decide

/-- One word for each clause of 30_encoding.md R58, at the lowest reserved value of its field. -/
theorem witness_ReservedEncodingsRaiseUnknown :
    0xB ≤ (fieldsOf 0xB00000#24).op.toNat ∧
    ((fieldsOf 0xA0B000#24).op.toNat = 0xA ∧ 11 ≤ (fieldsOf 0xA0B000#24).n.toNat) ∧
    ((fieldsOf 0x400B00#24).op.toNat = 0x4 ∧ 11 ≤ (fieldsOf 0x400B00#24).m.toNat) ∧
    ((fieldsOf 0x590000#24).op.toNat = 0x5 ∧ 9 ≤ (fieldsOf 0x590000#24).a.toNat) ∧
    ((fieldsOf 0x720000#24).op.toNat = 0x7 ∧ 2 ≤ (fieldsOf 0x720000#24).a.toNat) ∧
    ((fieldsOf 0x810000#24).op.toNat = 0x8 ∧ (fieldsOf 0x810000#24).a ≠ 0#4) ∧
    ((fieldsOf 0x501000#24).op.toNat = 0x5 ∧ (fieldsOf 0x501000#24).n ≠ 0#4) ∧
    ((fieldsOf 0x700100#24).op.toNat = 0x7 ∧ (fieldsOf 0x700100#24).m ≠ 0#4) ∧
    ((fieldsOf 0x000001#24).op.toNat = 0x0 ∧ (fieldsOf 0x000001#24).i ≠ 0#8) := by decide
theorem witness_ReservedEncodingsRaiseUnknown_step (w : InstrWord) :
    (ready 0xFF#8 [] w).host = [] ∧ (ready 0xFF#8 [] w).status = .running ∧
      (ready 0xFF#8 [] w).fetch ((ready 0xFF#8 [] w).readReg .pc) = some w :=
  ⟨rfl, rfl, State.loadedAtPc_fetch _ w⟩

theorem witness_destinations : Reg.r0 ≠ .lr ∧ Reg.r0 ≠ .pc ∧ Reg.sp ≠ .lr ∧ Reg.sp ≠ .pc := by decide
theorem witness_AddRegisterWritesTheSum : Reg.r7 ≠ .lr ∧ Reg.r7 ≠ .pc := by decide
theorem witness_AddImmediateWritesTheSum : Reg.r0 ≠ .lr ∧ Reg.r0 ≠ .pc := by decide
theorem witness_SubRegisterWritesTheDifference : Reg.sp ≠ .lr ∧ Reg.sp ≠ .pc := by decide
theorem witness_SubImmediateWritesTheDifference : Reg.r1 ≠ .lr ∧ Reg.r1 ≠ .pc := by decide
theorem witness_MovRegisterCopiesTheSource : Reg.r5 ≠ .lr ∧ Reg.r5 ≠ .pc := by decide
theorem witness_MovImmediateWritesTheImmediate : Reg.r4 ≠ .lr ∧ Reg.r4 ≠ .pc := by decide
theorem witness_LabelOnlyAdvancesThePc : (ready 0xFF#8 [] 0x600000#24).readReg .pc = 0xFF#8 := by decide

/-- A call into a slot that returns. -/
def atCall : State := { ready 0xFF#8 [] (encode (.bl 0x04#8)) with store := [(4, 0xA09000#24), (255, 0x800004#24)] }

theorem witness_CallThenReturnComesBack : atCall.host = [] ∧ atCall.status = .running ∧
    atCall.fetch (atCall.readReg .pc) = some (encode (.bl 0x04#8)) ∧ atCall.fetch 0x04#8 = some (encode (.br .lr)) := by decide
theorem witness_OnlyTheListedRegistersChange_legal : (Instr.movReg .sp .pc).wf = true := by decide
theorem witness_OnlyTheListedRegistersChange_reserved : (Instr.movReg .lr .r0).wf = false ∧ atReserved.host = [] ∧
    atReserved.status = .running ∧ atReserved.fetch (atReserved.readReg .pc) = some (encode (.movReg .lr .r0)) := by decide
theorem witness_ReservedRecordRaisesUnknown :
    (Instr.movImm .pc 0#8).wf = false ∧ (Instr.addReg .lr .r0 .r0).wf = false := by decide
theorem witness_LrIsWrittenOnlyByBl_changed : ∃ t, coreTurn (ready 0x02#8 [] 0x800004#24) = .next t ∧
    t.readReg .lr ≠ (ready 0x02#8 [] 0x800004#24).readReg .lr := ⟨_, rfl, by decide⟩
theorem witness_LrIsWrittenOnlyByBl_unnamed : (Instr.addReg .r0 .sp .pc).wf = true ∧ Reg.lr ∉ (Instr.addReg .r0 .sp .pc).sources := by
  decide
theorem witness_SpHasNoImplicitUse : (Instr.movReg .r0 .lr).wf = true ∧ Reg.sp ∉ (Instr.movReg .r0 .lr).writes ∧
    Reg.sp ∉ (Instr.movReg .r0 .lr).sources := by decide
theorem witness_NextPcOfEveryInstruction : (Instr.cbnz .pc 0x00#8).wf = true := by decide
theorem witness_StatusAndFaultRecordAreInvisibleToInstructions : (Instr.subReg .sp .sp .sp).wf = true := by decide
theorem witness_NoInstructionReachesDataMemory : ∃ t, coreTurn atLabel = .next t := ⟨_, rfl⟩
theorem witness_DatapathImplementsEveryInstruction : decode 0x7180FF#24 = .ok (.cbnz .sp 0xFF#8) := by decide
theorem witness_StepRunsTheDecodedInstruction :
    (atEmpty.host = [] ∧ atEmpty.status = .running ∧ atEmpty.fetch (atEmpty.readReg .pc) = none) ∧
    (atReserved.host = [] ∧ atReserved.status = .running ∧ atReserved.fetch (atReserved.readReg .pc) = some 0x490000#24 ∧
      decode 0x490000#24 = .error .destinationRegister) ∧
    (atLabel.host = [] ∧ atLabel.status = .running ∧ atLabel.fetch (atLabel.readReg .pc) = some 0x600000#24 ∧
      decode 0x600000#24 = .ok .label) := by decide
theorem witness_AMissHaltsAndNothingElseDoes : ∃ t, atEmpty.status = .running ∧
    atEmpty.fetch (atEmpty.readReg .pc) = none ∧ coreTurn atEmpty = .next t ∧ t.status = .halted := ⟨_, rfl, rfl, rfl, rfl⟩
theorem witness_IllegalWordFaultsWithoutEffect : atReserved.status = .running ∧
    atReserved.fetch (atReserved.readReg .pc) = some 0x490000#24 ∧ decode 0x490000#24 = .error .destinationRegister := by decide

/-- States for the rows of 41_sequencing.md R90 that the host's moves start. -/
def releasing : State := { State.reset with host := [.releaseReset] }
def releasingRejected : State := { releasing with verdict := .rejected .widthMismatch 0xFF#8 }
def resetting : State := { atLabel with host := [.assertReset] }

theorem witness_EngineTransitionTable :
    resetting.host = [.assertReset] ∧
    (releasing.host = [.releaseReset] ∧ releasing.status = .reset ∧ releasing.verdict = .ok) ∧
    (releasingRejected.host = [.releaseReset] ∧ releasingRejected.status = .reset ∧
      releasingRejected.verdict = .rejected .widthMismatch 0xFF#8) ∧
    (atEmpty.halt.host = [] ∧ atEmpty.halt.status = .halted) ∧
    ((atReserved.raiseUnknown 0x490000#24).host = [] ∧ (atReserved.raiseUnknown 0x490000#24).status = .faulted) := by decide
theorem witness_FaultedAndHaltedAbsorbUntilReset :
    ∃ t, (State.raiseUnknown { atReserved with host := [.observe, .wait] } 0x490000#24).status = .faulted ∧
      (State.raiseUnknown { atReserved with host := [.observe, .wait] } 0x490000#24).noResetPending ∧
      Host.Core.run core 2 (State.raiseUnknown { atReserved with host := [.observe, .wait] } 0x490000#24) = .next t := by
  refine ⟨_, rfl, ?_, rfl⟩
  simp [State.noResetPending]
theorem witness_OnlyMissReservedWordOrHostStopsARun_miss :
    ∃ t, atEmpty.status = .running ∧ step atEmpty = .next t ∧ t.status = .halted := ⟨_, rfl, rfl, rfl⟩
theorem witness_OnlyMissReservedWordOrHostStopsARun_fault :
    ∃ t, atReserved.status = .running ∧ step atReserved = .next t ∧ t.status = .faulted := ⟨_, rfl, rfl, rfl⟩
theorem witness_OnlyMissReservedWordOrHostStopsARun_host :
    ∃ t, resetting.status = .running ∧ step resetting = .next t ∧ t.status = .reset := ⟨_, rfl, rfl, rfl⟩
theorem witness_StoreIsReadOnlyDuringARun :
    ∃ t, (∀ program, HostMove.load program ∉ resetting.host) ∧ Host.Core.run core 1 resetting = .next t := by
  refine ⟨_, ?_, rfl⟩
  simp [resetting]
theorem witness_DataMemoryStaysEmpty : ∃ t, atLabel.mem = [] ∧ Host.Core.run core 1 atLabel = .next t := ⟨_, rfl, rfl⟩
theorem atEmpty_inv : atEmpty.Inv := by
  refine ⟨Memory.nil_wf, Store.nil_wf, ?_, fun _ => ⟨rfl, rfl, rfl⟩, ?_, ?_, ?_, ?_⟩
  · intro h; cases h
  · intro h; cases h
  · intro h; cases h
  · rintro (h | h) <;> cases h
  · intro idx h; cases h
theorem witness_EveryStepKeepsConsistency : ∃ t, atEmpty.Inv ∧ step atEmpty = .next t := ⟨_, atEmpty_inv, rfl⟩
theorem witness_ResetValues : ∃ rest, resetting.host = .assertReset :: rest := ⟨_, rfl⟩
theorem witness_ReleaseFetchesAtZero :
    releasing.contextIsReset ∧ releasing.status = .reset ∧ releasing.host = [.releaseReset] ∧ releasing.verdict = .ok ∧
      releasing.fetch 0#8 = none ∧ releasingRejected.contextIsReset ∧ releasingRejected.status = .reset ∧
      releasingRejected.host = [.releaseReset] :=
  ⟨⟨fun r => by cases r <;> rfl, rfl⟩, rfl, rfl, rfl, rfl, ⟨fun r => by cases r <;> rfl, rfl⟩, rfl, rfl⟩
theorem witness_ReleaseFetchesAtZero_hit :
    (State.fetch { releasing with store := [(0, 0x600000#24)] } 0#8) = some 0x600000#24 ∧ decode 0x600000#24 = .ok .label := by
  decide

/-- The empty program before the bad record. -/
theorem accepted_nil : ProgramAccepted [] := by
  intro before r after h
  cases before <;> cases h

/-- A program of one LABEL. -/
theorem accepted_label : ProgramAccepted [⟨zeros, .label⟩] := by
  intro before r after h
  cases before with
  | nil =>
    cases h
    refine ⟨?_, ?_⟩
    · rintro (⟨q, hq, _⟩ | hl | ⟨a, ha, _⟩)
      · cases hq
      · exact hl rfl
      · cases ha
    · rintro ⟨imm, hi, _⟩
      cases hi
  | cons q rest => cases rest <;> cases h

/-- A CORE in RESET whose host is about to load a program and release reset. -/
def loading (program : List RawRecord) : State := { State.reset with host := [.load program, .releaseReset] }

theorem witness_LoaderRejectsMalformedPrograms_duplicate :
    ProgramAccepted [⟨zeros, .label⟩] ∧ MalformedAfter [⟨zeros, .label⟩] ⟨zeros, .label⟩ ∧
      (loading ([⟨zeros, .label⟩] ++ ⟨zeros, .label⟩ :: [])).status = .reset ∧
      (loading ([⟨zeros, .label⟩] ++ ⟨zeros, .label⟩ :: [])).host =
        [.load ([⟨zeros, .label⟩] ++ ⟨zeros, .label⟩ :: []), .releaseReset] :=
  ⟨accepted_label, .inl ⟨_, List.mem_singleton_self _, rfl⟩, rfl, rfl⟩
theorem witness_LoaderRejectsMalformedPrograms_idx :
    ProgramAccepted [] ∧ MalformedAfter [] ⟨zeros.drop 1, .label⟩ := ⟨accepted_nil, .inr (.inl (by decide))⟩
theorem witness_LoaderRejectsMalformedPrograms_address :
    ProgramAccepted [] ∧ MalformedAfter [] ⟨zeros, .b (true :: zeros)⟩ :=
  ⟨accepted_nil, .inr (.inr ⟨_, rfl, by decide⟩)⟩
theorem witness_LoaderRejectsWrongWidths :
    ProgramAccepted [] ∧ ¬ MalformedAfter [] ⟨zeros, .movImm .r0 []⟩ ∧ WrongImmediateWidth ⟨zeros, .movImm .r0 []⟩ ∧
      (loading ([] ++ ⟨zeros, .movImm .r0 []⟩ :: [])).status = .reset ∧
      (loading ([] ++ ⟨zeros, .movImm .r0 []⟩ :: [])).host =
        [.load ([] ++ ⟨zeros, .movImm .r0 []⟩ :: []), .releaseReset] := by
  refine ⟨accepted_nil, ?_, ⟨[], rfl, by decide⟩, rfl, rfl⟩
  rintro (⟨q, hq, _⟩ | hl | ⟨a, ha, _⟩)
  · cases hq
  · exact hl rfl
  · cases ha
theorem witness_AcceptedProgramFillsItsSlots :
    ProgramAccepted [⟨zeros, .label⟩] ∧ (loading [⟨zeros, .label⟩]).status = .reset ∧
      (loading [⟨zeros, .label⟩]).host = [.load [⟨zeros, .label⟩], .releaseReset] := ⟨accepted_label, rfl, rfl⟩
theorem witness_HostWritesNothingWhileRunning :
    resetting.status = .running ∧ resetting.host = .assertReset :: [] ∧
      (State.status { resetting with host := [.load []] }) = .running := ⟨rfl, rfl, rfl⟩
theorem witness_HostWritesNothingWhileRunning_moves :
    ∃ t u, (State.status { atLabel with host := [.abort] }) = .running ∧ step { atLabel with host := [.abort] } = .next t ∧
      step { atLabel with host := [.wait] } = .next u := ⟨_, _, rfl, rfl, rfl⟩
theorem witness_HostMovesOutOfTurnAreRefused :
    (atLabel.status ≠ .reset ∧ atLabel.status ≠ .halted ∧ atLabel.status ≠ .faulted ∧ releasing.status ≠ .running) ∧
      (State.host { atLabel with host := [.load []] }) = [.load []] ∧
      (State.host { atLabel with host := [.releaseReset] }) = [.releaseReset] ∧
      (State.host { atLabel with host := [.observe] }) = [.observe] ∧
      (State.host { releasing with host := [.abort] }) = [.abort] := by decide
theorem witness_LoaderRejectsWrongWidths_turn : ∃ t,
    coreTurn (State.reset.raiseFault .widthMismatch 0#8 0#24) = .next t ∧ t.faultCause = some .widthMismatch := ⟨_, rfl, rfl⟩
theorem witness_ResultIsTheContextOfAHaltedCore :
    atLabel.halt.observation = some (.result atLabel.regs atLabel.mem) := by decide
theorem witness_SelfBranchExceedsEveryBudget : (ready 0xFF#8 [] 0x9000FF#24).status = .running ∧
    (ready 0xFF#8 [] 0x9000FF#24).fetch ((ready 0xFF#8 [] 0x9000FF#24).readReg .pc) =
      some (encode (.b ((ready 0xFF#8 [] 0x9000FF#24).readReg .pc))) := by decide
theorem witness_LargerBudgetSameEnd : runWithin 1 atEmpty ≠ .budgetExceeded := by decide
theorem witness_HostMovesInTurnAreServed :
    (State.host { atLabel with host := [.wait] }) = [.wait] ∧
      (State.host { atLabel.halt with host := [.observe] } = [.observe] ∧ atLabel.halt.status = .halted) ∧
      ((loading []).host = [.load [], .releaseReset] ∧ (loading []).status = .reset) ∧
      (State.reset.host = [] ∧ State.reset.status = .reset) := by decide
theorem witness_HostObservesTheFault : atReserved.host = [] ∧ atReserved.status = .running ∧
    atReserved.fetch (atReserved.readReg .pc) = some 0x490000#24 ∧ decode 0x490000#24 = .error .destinationRegister ∧
      atLabel.observation = none := by decide

end Sys2Proof.Tests
end

section
/-! SUPPORT. The statements of 10_state.md (O25, O27, O28, O29, O43, O50) and the lemmas they rest on: `exec` as one
write-back or one fault, what a write-back leaves alone, and what an instruction's effect depends on. -/

namespace Sys2Proof.Machine

/-! ## The adder as addition of bit vectors -/

/-- One digit position of 40_alu.md R66 counts the ones among its inputs. -/
theorem fullAdder_toNat (x y c : Bool) :
    (fullAdder x y c).1.toNat + 2 * (fullAdder x y c).2.toNat = x.toNat + y.toNat + c.toNat := by
  cases x <;> cases y <;> cases c <;> rfl

/-- After `n` digits the loop of 40_alu.md R67 holds the sum of the low `n` digits, its carry being the digit `n`. -/
theorem rippleTo_toNat {w : Nat} (a b : BitVec w) (n : Nat) :
    (rippleTo a b n).result.toNat + 2 ^ n * (rippleTo a b n).carry.toNat = a.toNat % 2 ^ n + b.toNat % 2 ^ n := by
  induction n with
  | zero => simp [rippleTo, Nat.mod_one]
  | succ n ih =>
    have hdigit := fullAdder_toNat (a.getLsbD n) (b.getLsbD n) (rippleTo a b n).carry
    simp only [rippleTo, BitVec.toNat_cons', Nat.shiftLeft_eq, Nat.mod_pow_succ, ← Nat.toNat_testBit,
      BitVec.testBit_toNat]
    linear_combination ih + 2 ^ n * hdigit

/-- `add` is addition modulo 2^W. -/
@[simp] theorem add_result {w : Nat} (a b : BitVec w) : (add a b).result = a + b := by
  apply BitVec.eq_of_toNat_eq
  have h := congrArg (· % 2 ^ w) (rippleTo_toNat a b w)
  simpa [add, Nat.mod_eq_of_lt] using h

/-- pc' is pc + 1 (41_sequencing.md R78). -/
theorem State.pcInc_eq (s : State) : s.pcInc = s.readReg .pc + 1#8 := add_result _ _

theorem zeroDetect_iff (v : Word) : zeroDetect v = true ↔ v = 0#8 := beq_iff_eq

/-! ## `exec` is one write-back, or one fault -/

/-- What port D of the register file writes (41_sequencing.md R80, R88). -/
def portD (i : Instr) (s : State) : Option (Reg × Word) :=
  match i with
  | .addReg rd rn rm => some (rd, (alu .add (s.readReg rn) (s.readReg rm)).result)
  | .addImm rd rn imm => some (rd, (alu .add (s.readReg rn) imm).result)
  | .subReg rd rn rm => some (rd, (alu .sub (s.readReg rn) (s.readReg rm)).result)
  | .subImm rd rn imm => some (rd, (alu .sub (s.readReg rn) imm).result)
  | .movReg rd rm => some (rd, s.readReg rm)
  | .movImm rd imm => some (rd, imm)
  | .label => none
  | .cbz _ _ => none
  | .cbnz _ _ => none
  | .bl _ => none
  | .b _ => none
  | .br _ => none

/-- What port L of the register file writes (41_sequencing.md R80, R88). -/
def portL (i : Instr) (s : State) : Option Word :=
  match i with
  | .bl _ => some s.pcInc
  | _ => none

/-- What the program_counter_mux selects (41_sequencing.md R86). -/
def pcSource (i : Instr) (s : State) : PcSource :=
  match i with
  | .cbz rn address => if zeroDetect (s.readReg rn) then .addr address else .inc
  | .cbnz rn address => if zeroDetect (s.readReg rn) then .inc else .addr address
  | .bl address => .addr address
  | .b address => .addr address
  | .br rn => .reg rn
  | _ => .inc

/-- A legal instruction is its three port writes, each computed from the state it starts in (41_sequencing.md R77, R88). -/
theorem exec_eq_writeBack {i : Instr} (s : State) (h : i.wf = true) :
    exec i s = .next (s.writeBack (portD i s) (portL i s) ((pcSource i s).value s)) := by
  cases i with
  | addReg rd | addImm rd | subReg rd | subImm rd | movReg rd | movImm rd => exact if_pos h
  | label | cbz | cbnz | bl | b | br => rfl

/-- A record with a reserved destination raises UnknownInstructionKind (30_encoding.md R58, R61; log 10). -/
theorem exec_reserved {i : Instr} (s : State) (h : i.wf = false) : exec i s = .next (s.raiseUnknown (encode i)) := by
  cases i with
  | addReg rd | addImm rd | subReg rd | subImm rd | movReg rd | movImm rd => exact s.retireData_reserved _ _ h
  | label | cbz | cbnz | bl | b | br => cases h

/-! ## The frame of an instruction -/

@[simp] theorem State.readReg_writeBack_pc (s : State) (result : Option (Reg × Word)) (link : Option Word) (p : Word) :
    (s.writeBack result link p).readReg .pc = p :=
  State.readReg_writeReg_same _ _ _

/-- The write-back of a legal instruction touches the registers of 10_state.md R17 alone. -/
theorem writeBack_frame {i : Instr} (s : State) (p : Word) (h : i.wf = true) :
    SameExcept i.writes s (s.writeBack (portD i s) (portL i s) p) := by
  cases i with
  | addReg rd | addImm rd | subReg rd | subImm rd | movReg rd | movImm rd => exact (s.writeBack_data _ p h).2.2
  | bl => exact (s.writeBack_link _ p).2.2
  | label | cbz | cbnz | b | br => exact (s.writeBack_pc p).2

theorem SameExcept.readReg {rs : List Reg} {s t : State} {r : Reg} (h : SameExcept rs s t) (hr : r ∉ rs) :
    t.readReg r = s.readReg r :=
  h.1 r hr

/-- A legal instruction completes, sends pc to what the mux selects and leaves the rest of the state alone. -/
theorem exec_next {i : Instr} (s : State) (h : i.wf = true) :
    ∃ t, exec i s = .next t ∧ t.readReg .pc = (pcSource i s).value s ∧ SameExcept i.writes s t :=
  ⟨_, exec_eq_writeBack s h, s.readReg_writeBack_pc _ _ _, writeBack_frame s _ h⟩

/-- Among the legal instructions only BL has lr in its row of 10_state.md R17. -/
theorem eq_bl_of_lr_mem_writes {i : Instr} (h : i.wf = true) (hlr : Reg.lr ∈ i.writes) : ∃ address, i = .bl address := by
  cases i with
  | addReg rd | addImm rd | subReg rd | subImm rd | movReg rd | movImm rd =>
    have hrd : Reg.lr = rd := by simpa [Instr.writes] using hlr
    subst hrd
    cases h
  | bl address => exact ⟨address, rfl⟩
  | label | cbz | cbnz | b | br => simp [Instr.writes] at hlr

/-! ## What an instruction's effect depends on -/

section Agreement

variable {rs : List Reg} {i : Instr} {s t : State}

theorem State.pcInc_congr (hpc : t.readReg .pc = s.readReg .pc) : t.pcInc = s.pcInc := by
  rw [State.pcInc_eq, State.pcInc_eq, hpc]

/-- Port D sees the sources alone. -/
theorem portD_congr (h : ∀ r ∈ i.sources, t.readReg r = s.readReg r) : portD i t = portD i s := by
  cases i <;> simp_all [portD, Instr.sources]

/-- Port L sees pc alone. -/
theorem portL_congr (hpc : t.readReg .pc = s.readReg .pc) : portL i t = portL i s := by
  cases i with
  | bl => exact congrArg some (State.pcInc_congr hpc)
  | _ => rfl

/-- The next pc sees the sources and pc alone. -/
theorem pcSource_value_congr (h : ∀ r ∈ i.sources, t.readReg r = s.readReg r)
    (hpc : t.readReg .pc = s.readReg .pc) : (pcSource i t).value t = (pcSource i s).value s := by
  have hinc := State.pcInc_congr hpc
  cases i with
  | cbz rn | cbnz rn =>
    have hrn := h rn (List.mem_singleton_self _)
    simp only [pcSource, hrn]
    split <;> simp [PcSource.value, hinc]
  | br rn => exact h rn (List.mem_singleton_self _)
  | bl | b => rfl
  | addReg | addImm | subReg | subImm | movReg | movImm | label => exact hinc

theorem State.writeReg_sameExcept (s : State) (r : Reg) (v : Word) : SameExcept [r] s (s.writeReg r v) :=
  SameExcept.of_regs fun _ hq => s.readReg_writeReg_ne v (by simpa using hq)

/-- One write made in both states keeps their agreement. -/
theorem SameExcept.writeReg (h : SameExcept rs s t) (r : Reg) (v : Word) :
    SameExcept rs (s.writeReg r v) (t.writeReg r v) := by
  obtain ⟨hregs, hrest⟩ := h
  refine ⟨fun q hq => ?_, hrest⟩
  rw [State.readReg_writeReg, State.readReg_writeReg, hregs q hq]

/-- The same write-back made in both states keeps their agreement. -/
theorem SameExcept.writeBack (h : SameExcept rs s t) (result : Option (Reg × Word)) (link : Option Word) (p : Word) :
    SameExcept rs (s.writeBack result link p) (t.writeBack result link p) := by
  cases result with
  | none =>
    cases link with
    | none => exact h.writeReg .pc p
    | some l => exact (h.writeReg .lr l).writeReg .pc p
  | some d =>
    cases link with
    | none => exact (h.writeReg d.1 d.2).writeReg .pc p
    | some l => exact ((h.writeReg d.1 d.2).writeReg .lr l).writeReg .pc p

/-- Noninterference: states that agree outside `rs` still agree there after a legal instruction that reads none of `rs`,
pc being read by every instruction. -/
theorem exec_sameExcept (hwf : i.wf = true) (h : SameExcept rs s t) (hsrc : ∀ r ∈ i.sources, r ∉ rs)
    (hpc : Reg.pc ∉ rs) :
    ∃ s' t', exec i s = .next s' ∧ exec i t = .next t' ∧ SameExcept rs s' t' := by
  have hreads : ∀ r ∈ i.sources, t.readReg r = s.readReg r := fun r hr => h.readReg (hsrc r hr)
  have hpcReads : t.readReg .pc = s.readReg .pc := h.readReg hpc
  refine ⟨_, _, exec_eq_writeBack s hwf, exec_eq_writeBack t hwf, ?_⟩
  rw [portD_congr hreads, portL_congr hpcReads, pcSource_value_congr hreads hpcReads]
  exact h.writeBack _ _ _

/-- A register that an instruction does not name as a source does not influence it, pc apart. -/
theorem exec_writeReg_sameExcept {r : Reg} (v : Word) (s : State) (hwf : i.wf = true) (hsrc : r ∉ i.sources)
    (hpc : r ≠ .pc) :
    ∃ t t', exec i s = .next t ∧ exec i (s.writeReg r v) = .next t' ∧ SameExcept [r] t t' := by
  refine exec_sameExcept hwf (s.writeReg_sameExcept r v) (fun q hq => ?_) (by simpa using hpc.symm)
  intro hmem
  obtain rfl := List.mem_singleton.1 hmem
  exact hsrc hq

end Agreement

/-! ## Words with a reserved destination, and steps -/

theorem withDestination_reserved {rd : Reg} (h : rd.isDestination = false) (k : Reg → Except Reserved Instr) :
    withDestination rd.number k = .error .destinationRegister := by
  simp [withDestination, h]

/-- The word of a reserved record is `Illegal` (30_encoding.md R58 case 3). -/
theorem decode_encode_reserved {i : Instr} (h : i.wf = false) : decode (encode i) = .error .destinationRegister := by
  rw [decode, encode, fieldsOf_wordOf]
  cases i with
  | addReg rd | addImm rd | subReg rd | subImm rd | movReg rd | movImm rd => exact withDestination_reserved h _
  | label | cbz | cbnz | bl | b | br => cases h

theorem step_of_host_nil {s : State} (h : s.host = []) : step s = coreTurn s := by
  simp [step, machineStep, h]

theorem step_of_host_cons {s : State} {move : HostMove} {rest : List HostMove} (h : s.host = move :: rest) :
    step s = hostTurn move { s with host := rest } := by
  simp [step, machineStep, h]

/-- A turn that fetches an illegal word (41_sequencing.md R89). -/
theorem coreTurn_of_decode_error {s : State} {w : InstrWord} {e : Reserved} (hs : s.status = .running)
    (hf : s.fetch (s.readReg .pc) = some w) (hd : decode w = .error e) : coreTurn s = .next (s.raiseUnknown w) := by
  simp [coreTurn, engineStep, hs, hf, hd]

theorem State.reset_readReg (r : Reg) : State.reset.readReg r = 0#8 := by cases r <;> rfl

/-! ## The statements -/

/-- Settles O25: the frame of the write-back, and the fault of a word whose destination is reserved. -/
theorem onlyTheListedRegistersChange : Obligations.OnlyTheListedRegistersChange := by
  refine ⟨fun i s hwf => ?_, fun i s hwf hhost hs hf => ?_⟩
  · obtain ⟨t, ht, -, hframe⟩ := exec_next s hwf
    exact ⟨t, ht, hframe⟩
  · have hstep : step s = .next (s.raiseUnknown (encode i)) :=
      (step_of_host_nil hhost).trans (coreTurn_of_decode_error hs hf (decode_encode_reserved hwf))
    exact ⟨_, hstep, s.raiseFault_taken _ _ _⟩

/-- A turn of the CORE that changes a register executed a legal instruction with that register in its row of R17. -/
theorem mem_writes_of_coreTurn_readReg_ne {s t : State} {r : Reg} (hturn : coreTurn s = .next t)
    (hr : t.readReg r ≠ s.readReg r) :
    ∃ w i, s.fetch (s.readReg .pc) = some w ∧ decode w = .ok i ∧ i.wf = true ∧ r ∈ i.writes := by
  obtain ⟨-, hc⟩ | ⟨-, -, hc⟩ | ⟨w, e, -, -, -, hc⟩ | ⟨w, i, -, hf, hd, hc⟩ := coreTurn_cases s <;>
    rw [hc] at hturn
  · cases hturn; exact absurd rfl hr
  · cases hturn; exact absurd rfl hr
  · cases hturn; exact absurd rfl hr
  · cases hwf : i.wf with
    | false =>
      rw [exec_reserved s hwf] at hturn
      cases hturn
      exact absurd rfl hr
    | true =>
      rw [exec_eq_writeBack s hwf] at hturn
      cases hturn
      have hmem : r ∈ i.writes := by
        by_contra hnot
        exact hr ((writeBack_frame s _ hwf).readReg hnot)
      exact ⟨w, i, hf, hd, hwf, hmem⟩

/-- Settles O27: only BL has lr in its frame, and lr is read through a source field alone. -/
theorem lrIsWrittenOnlyByBl : Obligations.LrIsWrittenOnlyByBl := by
  refine ⟨fun s t hturn hlr => ?_, fun address s => ?_, fun i v s hwf hsrc => ?_⟩
  · obtain ⟨w, i, hf, hd, hwf, hmem⟩ := mem_writes_of_coreTurn_readReg_ne hturn hlr
    obtain ⟨address, rfl⟩ := eq_bl_of_lr_mem_writes hwf hmem
    exact ⟨w, address, hf, hd⟩
  · exact ⟨_, rfl, (s.writeBack_link _ _).1.trans s.pcInc_eq⟩
  · exact exec_writeReg_sameExcept v s hwf hsrc (by decide)

/-- Settles O28: sp is in a frame or among the sources only by name. -/
theorem spHasNoImplicitUse : Obligations.SpHasNoImplicitUse := by
  refine ⟨fun i s hwf hsp => ?_, fun i v s hwf hsrc => ?_, State.reset_readReg .sp⟩
  · obtain ⟨t, ht, -, hframe⟩ := exec_next s hwf
    exact ⟨t, ht, hframe.readReg hsp⟩
  · exact exec_writeReg_sameExcept v s hwf hsrc (by decide)

/-- Settles O29: the program_counter_mux, instruction by instruction. -/
theorem nextPcOfEveryInstruction : Obligations.NextPcOfEveryInstruction := by
  intro i s hwf
  obtain ⟨t, ht, hpc, -⟩ := exec_next s hwf
  refine ⟨t, ht, hpc.trans ?_⟩
  cases i with
  | addReg | addImm | subReg | subImm | movReg | movImm | label => exact s.pcInc_eq
  | cbz rn | cbnz rn =>
    by_cases hz : s.readReg rn = 0#8 <;> simp [pcSource, zeroDetect_iff, hz, PcSource.value, s.pcInc_eq]
  | bl | b | br => rfl

/-- Settles O43: `State.reset` field by field, and the host's move `assertReset`, which keeps the store. -/
theorem resetValues : Obligations.ResetValues := by
  refine ⟨State.reset_readReg, rfl, rfl, rfl, rfl, rfl, fun s rest hhost => ?_⟩
  have hstep : step s = .next (State.assertReset { s with host := rest }) := step_of_host_cons hhost
  exact ⟨_, hstep, State.assertReset_readReg _, rfl, rfl, rfl, rfl, rfl, State.fetch_congr rfl⟩

/-- A result is observed exactly in HALTED. -/
theorem observation_eq_result_iff (s : State) (regs : RegFile) (mem : Memory) :
    s.observation = some (.result regs mem) ↔ s.status = .halted ∧ regs = s.regs ∧ mem = s.mem := by
  unfold State.observation
  cases s.status <;> simp [eq_comm]

/-- Settles O50: the one status that gives a result is not FAULTED. -/
theorem resultIsTheContextOfAHaltedCore : Obligations.ResultIsTheContextOfAHaltedCore := by
  intro s regs mem
  refine ⟨observation_eq_result_iff s regs mem, fun hobs => ?_⟩
  obtain ⟨hhalted, -, -⟩ := (observation_eq_result_iff s regs mem).1 hobs
  simp [State.safe, hhalted]

end Sys2Proof.Machine
end

section
/-! SUPPORT. The statements of 20_memory.md (O31, O39) and the lemmas they rest on: an instruction as a function of the
register file alone, what a turn of the CORE and a move of the host leave unchanged, and induction over a run. -/

namespace Sys2Proof.Machine

/-! ## An instruction sees and writes the register file alone -/

/-- A write-back changes the register file alone, and its new contents depend on the old ones alone. -/
theorem State.writeBack_of_regs_eq {s t : State} (h : t.regs = s.regs) (result : Option (Reg × Word))
    (link : Option Word) (p : Word) :
    t.writeBack result link p = { t with regs := (s.writeBack result link p).regs } := by
  cases result <;> cases link <;> simp [State.writeBack, State.writeReg, h]

/-- A legal instruction maps the register file to a register file, whatever the rest of the state holds, and leaves that
rest alone. -/
theorem exec_of_regs_eq {i : Instr} (s : State) (hwf : i.wf = true) :
    ∃ regs, ∀ t : State, t.regs = s.regs → exec i t = .next { t with regs := regs } := by
  refine ⟨(s.writeBack (portD i s) (portL i s) ((pcSource i s).value s)).regs, fun t hregs => ?_⟩
  have hreads := State.readReg_congr hregs
  rw [exec_eq_writeBack t hwf, portD_congr fun r _ => hreads r, portL_congr (hreads .pc),
    pcSource_value_congr (fun r _ => hreads r) (hreads .pc), State.writeBack_of_regs_eq hregs]

/-! ## What a turn, a move and a step leave unchanged -/

/-- What a turn of the CORE passes on unchanged: the data memory, and all that the host alone writes, which is the store,
the loader's report on it and the moves not yet served. -/
structure PassedOn (s t : State) : Prop where
  mem : t.mem = s.mem
  store : t.store = s.store
  verdict : t.verdict = s.verdict
  host : t.host = s.host

theorem exec_passedOn {i : Instr} {s t : State} (h : exec i s = .next t) : PassedOn s t := by
  cases hwf : i.wf with
  | true =>
    obtain ⟨regs, hexec⟩ := exec_of_regs_eq s hwf
    rw [hexec s rfl] at h
    cases h
    exact ⟨rfl, rfl, rfl, rfl⟩
  | false =>
    rw [exec_reserved s hwf] at h
    cases h
    exact ⟨rfl, rfl, rfl, rfl⟩

theorem coreTurn_passedOn {s t : State} (h : coreTurn s = .next t) : PassedOn s t := by
  obtain ⟨-, hc⟩ | ⟨-, -, hc⟩ | ⟨w, e, -, -, -, hc⟩ | ⟨w, i, -, -, -, hc⟩ := coreTurn_cases s <;>
    rw [hc] at h
  · cases h; exact ⟨rfl, rfl, rfl, rfl⟩
  · cases h; exact ⟨rfl, rfl, rfl, rfl⟩
  · cases h; exact ⟨rfl, rfl, rfl, rfl⟩
  · exact exec_passedOn h

/-- Releasing reset reads the loader's report and writes the status and the fault record alone. -/
theorem State.releaseReset_passedOn (s : State) : PassedOn s s.releaseReset := by
  unfold State.releaseReset
  split <;> exact ⟨rfl, rfl, rfl, rfl⟩

theorem State.loadProgram_host (s : State) (program : List RawRecord) : (s.loadProgram program).host = s.host := by
  unfold State.loadProgram
  split <;> rfl

/-- Serving a move adds no move to those pending. -/
theorem hostTurn_host {move : HostMove} {s t : State} (h : hostTurn move s = .next t) : t.host = s.host := by
  obtain ⟨program, -, -, rfl⟩ | ⟨-, -, rfl⟩ | ⟨-, hturn⟩ | ⟨-, -, rfl⟩ | ⟨-, rfl⟩ := hostTurn_cases h
  · exact s.loadProgram_host program
  · exact s.releaseReset_passedOn.host
  · exact (coreTurn_passedOn hturn).host
  · rfl
  · rfl

/-- `load` is the one move that writes the store (20_memory.md R44). -/
theorem hostTurn_store {move : HostMove} {s t : State} (h : hostTurn move s = .next t)
    (hmove : ∀ program, move ≠ .load program) : t.store = s.store := by
  obtain ⟨program, hload, -, -⟩ | ⟨-, -, rfl⟩ | ⟨-, hturn⟩ | ⟨-, -, rfl⟩ | ⟨-, rfl⟩ := hostTurn_cases h
  · exact absurd hload (hmove program)
  · exact s.releaseReset_passedOn.store
  · exact (coreTurn_passedOn hturn).store
  · rfl
  · rfl

/-- A step serves the oldest pending move, if there is one, and adds none. -/
theorem step_host {s t : State} (h : step s = .next t) : t.host = s.host.tail := by
  obtain ⟨hnil, hs⟩ | ⟨move, rest, hcons, hs⟩ := step_cases s <;> rw [hs] at h
  · rw [(coreTurn_passedOn h).host, hnil, List.tail_nil]
  · rw [hostTurn_host h, hcons, List.tail_cons]

/-- No load is among the host's pending moves. -/
def State.noLoadPending (s : State) : Prop := ∀ program, HostMove.load program ∉ s.host

theorem step_noLoadPending {s t : State} (h : step s = .next t) (hload : s.noLoadPending) : t.noLoadPending := by
  intro program hmem
  rw [step_host h] at hmem
  exact hload program (List.mem_of_mem_tail hmem)

/-- Only a pending load lets a step write the store. -/
theorem step_store {s t : State} (h : step s = .next t) (hload : s.noLoadPending) : t.store = s.store := by
  obtain ⟨-, hs⟩ | ⟨move, rest, hcons, hs⟩ := step_cases s <;> rw [hs] at h
  · exact (coreTurn_passedOn h).store
  · have hmove : ∀ program, move ≠ .load program := by
      rintro program rfl
      exact hload program (hcons ▸ List.mem_cons_self)
    exact hostTurn_store (s := { s with host := rest }) h hmove

/-! ## Induction over a run -/

/-- A run of `n + 1` steps that reaches a state is a step and a run of `n` steps. -/
theorem run_succ_eq_next {M : Host.Core} {n : Nat} {s t : M.State} (h : M.run (n + 1) s = .next t) :
    ∃ u, M.step s = .next u ∧ M.run n u = .next t := by
  unfold Host.Core.run at h
  split at h
  · next u hs => exact ⟨u, hs, h⟩
  · cases h
  · cases h

/-- What every step keeps, every run keeps. -/
theorem run_induction {P : State → Prop} (hstep : ∀ s t, P s → step s = .next t → P t) {n : Nat} {s t : State}
    (hs : P s) (h : Host.Core.run Sys2Proof.core n s = .next t) : P t := by
  induction n generalizing s with
  | zero => cases h; exact hs
  | succ n ih =>
    obtain ⟨u, hu, hrun⟩ := run_succ_eq_next h
    exact ih (hstep s u hs hu) hrun

/-! ## The statements -/

/-- Settles O39: that no load is pending and that the store is the one the run began with are kept together by every
step. -/
theorem storeIsReadOnlyDuringARun : Obligations.StoreIsReadOnlyDuringARun := by
  intro n s t hload hrun
  have hkept : t.noLoadPending ∧ t.store = s.store := by
    refine run_induction (P := fun u => u.noLoadPending ∧ u.store = s.store) ?_ ⟨hload, rfl⟩ hrun
    rintro u v ⟨hpending, hstore⟩ hv
    exact ⟨step_noLoadPending hv hpending, (step_store hv hpending).trans hstore⟩
  exact State.fetch_congr hkept.2

/-- Settles O31: a legal instruction sees and writes the register file alone, and a reserved record raises its fault from
pc and its own word. -/
theorem noInstructionReachesDataMemory : Obligations.NoInstructionReachesDataMemory := by
  refine ⟨fun i s m => ?_, fun s t hturn => (coreTurn_passedOn hturn).mem⟩
  cases hwf : i.wf with
  | true =>
    obtain ⟨regs, hexec⟩ := exec_of_regs_eq s hwf
    exact ⟨{ s with regs := regs }, hexec s rfl, rfl, hexec { s with mem := m } rfl⟩
  | false => exact ⟨s.raiseUnknown (encode i), exec_reserved s hwf, rfl, exec_reserved { s with mem := m } hwf⟩

end Sys2Proof.Machine
end

section
/-! SUPPORT. The statements of 30_encoding.md (O9, O11) and the lemmas they rest on: the words that decode are the words of
the legal records, and so are the words that select a row of the match and mask table. -/

namespace Sys2Proof

/-! ## The words that decode are the words of the legal records -/

/-- A word is determined by its fields (30_encoding.md R48). -/
theorem fieldsOf_inj {v w : InstrWord} : fieldsOf v = fieldsOf w ↔ v = w :=
  (Function.LeftInverse.injective wordOf_fieldsOf).eq_iff

theorem fieldsOf_encode (i : Instr) : fieldsOf (encode i) = encodeFields i := fieldsOf_wordOf _

/-- A word is a record's word exactly when its fields are the record's fields. -/
theorem encode_eq_iff {i : Instr} {w : InstrWord} : encode i = w ↔ encodeFields i = fieldsOf w := by
  rw [← fieldsOf_inj, fieldsOf_encode]

theorem regOfNumber_eq_some_iff {x : BitVec 4} {r : Reg} : regOfNumber x = some r ↔ x = r.number := by
  constructor
  · exact fun h => (number_of_regOfNumber h).symm
  · rintro rfl
    exact regOfNumber_number r

/-- The fields of a legal record decode to it. -/
theorem decodeFields_encodeFields {i : Instr} (h : i.wf = true) : decodeFields (encodeFields i) = .ok i := by
  cases i with
  | addReg rd | addImm rd | subReg rd | subImm rd | movReg rd | movImm rd =>
    have hrd : rd.isDestination = true := h
    simp [decodeFields, encodeFields, withDestination_ok, withSource_ok, withZero_ok, hrd]
  | cbz | cbnz | br => simp [decodeFields, encodeFields, withSource_ok, withZero_ok]
  | label | bl | b => rfl

/-- Fields that decode are the fields of the record they decode to, which is legal. -/
theorem wf_and_encodeFields_of_decodeFields {f : Fields} {i : Instr} (h : decodeFields f = .ok i) :
    i.wf = true ∧ encodeFields i = f := by
  obtain ⟨op, a, n, m, imm⟩ := f
  simp only [decodeFields] at h
  split at h
  case h_8 hop =>
    split at h
    case h_1 ha | h_2 ha =>
      simp only [withSource_ok, withZero_ok, regOfNumber_eq_some_iff, Except.ok.injEq] at h
      obtain ⟨rn, rfl, rfl, rfl⟩ := h
      exact ⟨rfl, by simp [encodeFields, ← BitVec.toNat_inj, hop, ha]⟩
    case h_3 => cases h
  case h_12 => cases h
  all_goals simp only [withDestination_ok, withSource_ok, withZero_ok, regOfNumber_eq_some_iff, Except.ok.injEq] at h
  case h_1 hop | h_3 hop =>
    obtain ⟨rd, rfl, hrd, rn, rfl, rm, rfl, rfl, rfl⟩ := h
    exact ⟨hrd, by simp [encodeFields, ← BitVec.toNat_inj, hop]⟩
  case h_2 hop | h_4 hop =>
    obtain ⟨rd, rfl, hrd, rn, rfl, rfl, rfl⟩ := h
    exact ⟨hrd, by simp [encodeFields, ← BitVec.toNat_inj, hop]⟩
  case h_5 hop =>
    obtain ⟨rd, rfl, hrd, rm, rfl, rfl, rfl, rfl⟩ := h
    exact ⟨hrd, by simp [encodeFields, ← BitVec.toNat_inj, hop]⟩
  case h_6 hop =>
    obtain ⟨rd, rfl, hrd, rfl, rfl, rfl⟩ := h
    exact ⟨hrd, by simp [encodeFields, ← BitVec.toNat_inj, hop]⟩
  case h_7 hop =>
    obtain ⟨rfl, rfl, rfl, rfl, rfl⟩ := h
    exact ⟨rfl, by simp [encodeFields, ← BitVec.toNat_inj, hop]⟩
  case h_9 hop | h_10 hop =>
    obtain ⟨rfl, rfl, rfl, rfl⟩ := h
    exact ⟨rfl, by simp [encodeFields, ← BitVec.toNat_inj, hop]⟩
  case h_11 hop =>
    obtain ⟨rn, rfl, rfl, rfl, rfl, rfl⟩ := h
    exact ⟨rfl, by simp [encodeFields, ← BitVec.toNat_inj, hop]⟩

/-- The decoder is the inverse of the encoder on the legal records, and `Illegal` elsewhere (30_encoding.md R61). -/
theorem decode_eq_ok_iff {w : InstrWord} {i : Instr} : decode w = .ok i ↔ i.wf = true ∧ encode i = w := by
  constructor
  · intro h
    obtain ⟨hwf, hfields⟩ := wf_and_encodeFields_of_decodeFields h
    exact ⟨hwf, encode_eq_iff.2 hfields⟩
  · rintro ⟨hwf, rfl⟩
    rw [decode, fieldsOf_encode, decodeFields_encodeFields hwf]

/-! ## The words that select a row of the table are the words of the legal records -/

/-- A source field of 0 to 10 names a register (30_encoding.md R50). -/
theorem exists_number_eq {x : BitVec 4} (h : x.toNat ≤ 10) : ∃ r : Reg, r.number = x := by
  cases hr : regOfNumber x with
  | some r => exact ⟨r, number_of_regOfNumber hr⟩
  | none =>
    have := regOfNumber_eq_none.1 hr
    omega

/-- A destination field of 0 to 8 names a register that may be written (30_encoding.md R50). -/
theorem exists_destination_number_eq {x : BitVec 4} (h : x.toNat ≤ 8) :
    ∃ r : Reg, r.isDestination = true ∧ r.number = x := by
  obtain ⟨r, rfl⟩ := exists_number_eq (h.trans (by decide))
  exact ⟨r, Reg.isDestination_iff.2 h, rfl⟩

theorem Reg.number_le (r : Reg) : r.number.toNat ≤ 10 := by cases r <;> decide

theorem Reg.not_le_number (r : Reg) : ¬ 11 ≤ r.number.toNat := Nat.not_le_of_lt (Nat.lt_succ_of_le r.number_le)

/-- The fixed bits of a word, field by field. -/
theorem and_eq_iff_fieldsOf {w mask pattern : InstrWord} :
    w &&& mask = pattern ↔
      (fieldsOf w).op &&& (fieldsOf mask).op = (fieldsOf pattern).op ∧
      (fieldsOf w).a &&& (fieldsOf mask).a = (fieldsOf pattern).a ∧
      (fieldsOf w).n &&& (fieldsOf mask).n = (fieldsOf pattern).n ∧
      (fieldsOf w).m &&& (fieldsOf mask).m = (fieldsOf pattern).m ∧
      (fieldsOf w).i &&& (fieldsOf mask).i = (fieldsOf pattern).i := by
  rw [← fieldsOf_inj]
  simp only [fieldsOf, BitVec.extractLsb'_and, Fields.mk.injEq]

/-- What selecting a row asks: its fixed bits, and its bounds on the register fields (30_encoding.md R52). -/
theorem TableRow.selects_iff {row : TableRow} {w : InstrWord} :
    row.selects w = true ↔
      w &&& row.mask = row.pattern ∧ (fieldsOf w).a.toNat ≤ row.maxA ∧ (fieldsOf w).n.toNat ≤ row.maxN ∧
        (fieldsOf w).m.toNat ≤ row.maxM := by
  simp [TableRow.selects, fieldsOf, and_assoc]

/-- A register field under a full mask. -/
theorem and_fullNibble (x : BitVec 4) : x &&& 15#4 = x := BitVec.and_allOnes

/-- The immediate field under a full mask. -/
theorem and_fullByte (x : BitVec 8) : x &&& 255#8 = x := BitVec.and_allOnes

/-- A word that selects a row is the word of a legal record of that row. -/
theorem exists_record_of_selects {row : TableRow} {w : InstrWord} (hrow : row ∈ opcodeTable)
    (h : row.selects w = true) : ∃ i : Instr, i.wf = true ∧ i.mnemonic = row.mnemonic ∧ encode i = w := by
  obtain ⟨hbits, ha, hn, hm⟩ := TableRow.selects_iff.1 h
  rw [and_eq_iff_fieldsOf] at hbits
  simp only [encode_eq_iff]
  generalize fieldsOf w = f at *
  obtain ⟨op, a, n, m, imm⟩ := f
  simp only [opcodeTable, List.mem_cons, List.not_mem_nil, or_false] at hrow
  rcases hrow with rfl | rfl | rfl | rfl | rfl | rfl | rfl | rfl | rfl | rfl | rfl | rfl
  all_goals simp only [fieldsOf, BitVec.reduceExtractLsb', BitVec.extractLsb'_zero, BitVec.and_zero, and_fullNibble,
    and_fullByte, and_true, true_and] at hbits
  · obtain ⟨rfl, rfl⟩ := hbits
    obtain ⟨rd, hrd, rfl⟩ := exists_destination_number_eq ha
    obtain ⟨rn, rfl⟩ := exists_number_eq hn
    obtain ⟨rm, rfl⟩ := exists_number_eq hm
    exact ⟨.addReg rd rn rm, hrd, rfl, rfl⟩
  · obtain ⟨rfl, rfl⟩ := hbits
    obtain ⟨rd, hrd, rfl⟩ := exists_destination_number_eq ha
    obtain ⟨rn, rfl⟩ := exists_number_eq hn
    exact ⟨.addImm rd rn imm, hrd, rfl, rfl⟩
  · obtain ⟨rfl, rfl⟩ := hbits
    obtain ⟨rd, hrd, rfl⟩ := exists_destination_number_eq ha
    obtain ⟨rn, rfl⟩ := exists_number_eq hn
    obtain ⟨rm, rfl⟩ := exists_number_eq hm
    exact ⟨.subReg rd rn rm, hrd, rfl, rfl⟩
  · obtain ⟨rfl, rfl⟩ := hbits
    obtain ⟨rd, hrd, rfl⟩ := exists_destination_number_eq ha
    obtain ⟨rn, rfl⟩ := exists_number_eq hn
    exact ⟨.subImm rd rn imm, hrd, rfl, rfl⟩
  · obtain ⟨rfl, rfl, rfl⟩ := hbits
    obtain ⟨rd, hrd, rfl⟩ := exists_destination_number_eq ha
    obtain ⟨rm, rfl⟩ := exists_number_eq hm
    exact ⟨.movReg rd rm, hrd, rfl, rfl⟩
  · obtain ⟨rfl, rfl, rfl⟩ := hbits
    obtain ⟨rd, hrd, rfl⟩ := exists_destination_number_eq ha
    exact ⟨.movImm rd imm, hrd, rfl, rfl⟩
  · obtain ⟨rfl, rfl, rfl, rfl, rfl⟩ := hbits
    exact ⟨.label, rfl, rfl, rfl⟩
  · obtain ⟨rfl, rfl, rfl⟩ := hbits
    obtain ⟨rn, rfl⟩ := exists_number_eq hn
    exact ⟨.cbz rn imm, rfl, rfl, rfl⟩
  · obtain ⟨rfl, rfl, rfl⟩ := hbits
    obtain ⟨rn, rfl⟩ := exists_number_eq hn
    exact ⟨.cbnz rn imm, rfl, rfl, rfl⟩
  · obtain ⟨rfl, rfl, rfl, rfl⟩ := hbits
    exact ⟨.bl imm, rfl, rfl, rfl⟩
  · obtain ⟨rfl, rfl, rfl, rfl⟩ := hbits
    exact ⟨.b imm, rfl, rfl, rfl⟩
  · obtain ⟨rfl, rfl, rfl, rfl⟩ := hbits
    obtain ⟨rn, rfl⟩ := exists_number_eq hn
    exact ⟨.br rn, rfl, rfl, rfl⟩

/-- The per-instruction family of Laws/PerInstr, for every record. -/
theorem rowMatch (i : Instr) : Laws.RowMatch.Statement i := by
  cases i with
  | addReg rd rn rm => exact Laws.RowMatch.addReg rd rn rm
  | addImm rd rn imm => exact Laws.RowMatch.addImm rd rn imm
  | subReg rd rn rm => exact Laws.RowMatch.subReg rd rn rm
  | subImm rd rn imm => exact Laws.RowMatch.subImm rd rn imm
  | movReg rd rm => exact Laws.RowMatch.movReg rd rm
  | movImm rd imm => exact Laws.RowMatch.movImm rd imm
  | label => exact Laws.RowMatch.label
  | cbz rn address => exact Laws.RowMatch.cbz rn address
  | cbnz rn address => exact Laws.RowMatch.cbnz rn address
  | bl address => exact Laws.RowMatch.bl address
  | b address => exact Laws.RowMatch.b address
  | br rn => exact Laws.RowMatch.br rn

/-- The fields of a legal record meet the constraint of its row (30_encoding.md R52). -/
theorem encodeFields_le_of_mnemonic {row : TableRow} {i : Instr} (hrow : row ∈ opcodeTable)
    (hm : row.mnemonic = i.mnemonic) (hwf : i.wf = true) :
    (encodeFields i).a.toNat ≤ row.maxA ∧ (encodeFields i).n.toNat ≤ row.maxN ∧
      (encodeFields i).m.toNat ≤ row.maxM := by
  revert row
  cases i with
  | addReg rd | addImm rd | subReg rd | subImm rd | movReg rd | movImm rd =>
    have hrd := Reg.isDestination_iff.1 hwf
    simp [opcodeTable, Instr.mnemonic, encodeFields, hrd, Reg.number_le]
  | cbz | cbnz | br => simp [opcodeTable, Instr.mnemonic, encodeFields, Reg.number_le]
  | label | bl | b => simp [opcodeTable, Instr.mnemonic, encodeFields]

/-- The word of a legal record selects a row. -/
theorem exists_selects_encode {i : Instr} (hwf : i.wf = true) : ∃ row ∈ opcodeTable, row.selects (encode i) = true := by
  obtain ⟨row, hrow, hm, hbits⟩ := rowMatch i
  refine ⟨row, hrow, TableRow.selects_iff.2 ⟨hbits, ?_⟩⟩
  rw [fieldsOf_encode]
  exact encodeFields_le_of_mnemonic hrow hm hwf

end Sys2Proof

namespace Sys2Proof.Machine

/-! ## The words that do not decode -/

/-- A step that fetches an illegal word takes the fault (41_sequencing.md R89). -/
theorem step_faultTaken_of_decode_error {s : State} {w : InstrWord} {e : Reserved} (hhost : s.host = [])
    (hs : s.status = .running) (hf : s.fetch (s.readReg .pc) = some w) (hd : decode w = .error e) :
    ∃ t, step s = .next t ∧ FaultTaken .unknownInstructionKind (s.readReg .pc) w s t :=
  ⟨_, (step_of_host_nil hhost).trans (coreTurn_of_decode_error hs hf hd), s.raiseFault_taken _ _ _⟩

/-- A word of no legal record is `Illegal`, and the step that fetches it takes the fault (30_encoding.md R57). -/
theorem illegal_of_encode_ne {w : InstrWord} (h : ∀ i : Instr, i.wf = true → encode i ≠ w) :
    (∃ e, decode w = .error e) ∧
    ∀ s : State, s.host = [] → s.status = .running → s.fetch (s.readReg .pc) = some w →
      ∃ t, step s = .next t ∧ FaultTaken .unknownInstructionKind (s.readReg .pc) w s t := by
  have herror : ∃ e, decode w = .error e := by
    cases hd : decode w with
    | error e => exact ⟨e, rfl⟩
    | ok i =>
      obtain ⟨hwf, henc⟩ := decode_eq_ok_iff.1 hd
      exact absurd henc (h i hwf)
  obtain ⟨e, he⟩ := herror
  exact ⟨⟨e, he⟩, fun s hhost hs hf => step_faultTaken_of_decode_error hhost hs hf he⟩

/-! ## The statements -/

/-- Settles O9: a word selects a row exactly when it is the word of a legal record of that row, and those are the words that
decode. -/
theorem decoderFollowsTheMatchMaskTable : Obligations.DecoderFollowsTheMatchMaskTable := by
  refine ⟨fun w row hrow hsel => ?_, fun w hnone => illegal_of_encode_ne fun i hwf henc => ?_⟩
  · obtain ⟨i, hwf, hm, henc⟩ := exists_record_of_selects hrow hsel
    exact ⟨i, decode_eq_ok_iff.2 ⟨hwf, henc⟩, hm, henc⟩
  · obtain ⟨row, hrow, hsel⟩ := exists_selects_encode hwf
    rw [henc, hnone row hrow] at hsel
    cases hsel

/-- Settles O11: no legal record has fields of any of the five kinds. -/
theorem reservedEncodingsRaiseUnknown : Obligations.ReservedEncodingsRaiseUnknown := by
  intro f hreserved
  refine illegal_of_encode_ne fun i hwf henc => ?_
  obtain rfl : encodeFields i = f := by rw [encode_eq_iff.1 henc, fieldsOf_wordOf]
  cases i with
  | addReg rd | addImm rd | subReg rd | subImm rd | movReg rd | movImm rd =>
    have hrd : ¬ 9 ≤ rd.number.toNat := Nat.not_le_of_lt (Nat.lt_succ_of_le (Reg.isDestination_iff.1 hwf))
    simp [encodeFields, hrd, Reg.not_le_number] at hreserved
  | cbz | cbnz | br => simp [encodeFields, Reg.not_le_number] at hreserved
  | label | bl | b => simp [encodeFields] at hreserved

end Sys2Proof.Machine
end

section
/-! SUPPORT. The statements of 40_alu.md (O1, O3, O5) and the lemmas they rest on: the digits and carries of the ripple-carry
loop, its symmetry, and `twos` and `sub` as operations on bit vectors. -/

namespace Sys2Proof.Machine

/-! ## The full adder -/

theorem fullAdder_comm (x y c : Bool) : fullAdder x y c = fullAdder y x c := by
  cases x <;> cases y <;> cases c <;> rfl

/-- With nothing to add and no carry-in the digit passes through. -/
theorem fullAdder_false_false (x : Bool) : fullAdder x false false = (x, false) := by
  cases x <;> rfl

/-! ## The loop -/

section Loop

variable {w : Nat} (a b : BitVec w)

/-- The full adder's equation at position `n`: the digit and carry that the loop of 40_alu.md R67 adds there. -/
theorem rippleTo_succ (n : Nat) :
    rippleTo a b (n + 1) =
      ⟨BitVec.cons (fullAdder (a.getLsbD n) (b.getLsbD n) (rippleTo a b n).carry).1 (rippleTo a b n).result,
        (fullAdder (a.getLsbD n) (b.getLsbD n) (rippleTo a b n).carry).2⟩ := rfl

/-- Later turns of the loop keep the digit that turn `k` wrote. -/
theorem rippleTo_result_getLsbD {k n : Nat} (hk : k < n) :
    (rippleTo a b n).result.getLsbD k = (fullAdder (a.getLsbD k) (b.getLsbD k) (rippleTo a b k).carry).1 := by
  induction n with
  | zero => cases hk
  | succ n ih =>
    rw [rippleTo_succ, BitVec.getLsbD_cons]
    split
    case isTrue h => rw [h]
    case isFalse h => exact ih (Nat.lt_of_le_of_ne (Nat.le_of_lt_succ hk) h)

theorem rippleTo_comm (n : Nat) : rippleTo a b n = rippleTo b a n := by
  induction n with
  | zero => rfl
  | succ n ih => rw [rippleTo_succ, rippleTo_succ, ih, fullAdder_comm]

/-- Adding zero never makes a carry. -/
theorem rippleTo_zero_carry (n : Nat) : (rippleTo a 0#w n).carry = false := by
  induction n with
  | zero => rfl
  | succ n ih => rw [rippleTo_succ, ih, BitVec.getLsbD_zero, fullAdder_false_false]

end Loop

/-! ## The operations of the unit -/

/-- `twos` is negation modulo 2^W. -/
@[simp] theorem twos_eq_neg {w : Nat} (b : BitVec w) : twos b = -b := by
  rw [twos, add_result, ones, BitVec.neg_eq_not_add]

/-- `sub` is subtraction modulo 2^W. -/
@[simp] theorem sub_result {w : Nat} (a b : BitVec w) : (sub a b).result = a - b := by
  rw [sub, add_result, twos_eq_neg, BitVec.sub_eq_add_neg]

/-! ## The statements -/

/-- Settles O1: the sequence of carries is the loop's own, after each number of digits. -/
theorem rippleCarryAddsDigitByDigit : Obligations.RippleCarryAddsDigitByDigit := by
  refine ⟨fun w a b => ⟨fun n => (rippleTo a b n).carry, rfl, fun k hk => ?_, rfl⟩,
    fun w a b => rippleTo_comm a b w, by decide, by decide⟩
  exact Prod.ext (rippleTo_result_getLsbD a b hk) rfl

/-- Settles O3: `ones` is the complement of bit vectors, whose digits and number are known. -/
theorem onesComplementFlipsEveryDigit : Obligations.OnesComplementFlipsEveryDigit := by
  refine ⟨fun w b => ⟨fun k hk => ?_, BitVec.toNat_not⟩, by decide⟩
  simp [ones, hk]

/-- Settles O5: results are sums and differences of bit vectors, and adding zero makes no carry. -/
theorem aluRoundTripIdentityAndCancellation : Obligations.AluRoundTripIdentityAndCancellation := by
  intro w a b _
  refine ⟨?_, ?_, rippleTo_zero_carry a w, ?_⟩
  · rw [sub_result, add_result, BitVec.add_sub_cancel]
  · rw [add_result, BitVec.add_zero]
  · rw [add_result, twos_eq_neg, ← BitVec.sub_eq_add_neg, BitVec.sub_self]

end Sys2Proof.Machine
end

section
/-! SUPPORT. The statements of 41_sequencing.md (O33, O34, O35, O36) and the lemmas they rest on: what a turn of the CORE is
for each status and each outcome of fetch and decode, and what the release of reset is for each report of the loader. -/

namespace Sys2Proof.Machine

section Rows

variable {s : State}

/-! ## A turn of the CORE, row by row -/

/-- A turn that fetches an empty slot (41_sequencing.md R82). -/
theorem coreTurn_of_miss (hs : s.status = .running) (hf : s.fetch (s.readReg .pc) = none) :
    coreTurn s = .next s.halt := by
  simp [coreTurn, engineStep, hs, hf]

/-- A turn that fetches a legal word (41_sequencing.md R91). -/
theorem coreTurn_of_decode_ok {w : InstrWord} {i : Instr} (hs : s.status = .running)
    (hf : s.fetch (s.readReg .pc) = some w) (hd : decode w = .ok i) : coreTurn s = exec i s := by
  simp [coreTurn, engineStep, hs, hf, hd]

/-- Outside RUNNING a turn does nothing (41_sequencing.md R90). -/
theorem coreTurn_of_not_running (hs : s.status ≠ .running) : coreTurn s = .next s := by
  obtain ⟨-, hturn⟩ | ⟨hrun, -⟩ | ⟨w, e, hrun, -⟩ | ⟨w, i, hrun, -⟩ := coreTurn_cases s
  · exact hturn
  all_goals exact absurd hrun hs

theorem wf_of_decode_ok {w : InstrWord} {i : Instr} (hd : decode w = .ok i) : i.wf = true :=
  (decode_eq_ok_iff.1 hd).1

theorem SameExcept.status {rs : List Reg} {t : State} (h : SameExcept rs s t) : t.status = s.status := by
  obtain ⟨-, -, -, -, -, hstatus, -⟩ := h
  exact hstatus

/-- A legal instruction leaves the status alone, so it neither halts nor faults. -/
theorem exec_status {i : Instr} {t : State} (hwf : i.wf = true) (h : exec i s = .next t) : t.status = s.status := by
  obtain ⟨u, hu, -, hframe⟩ := exec_next s hwf
  obtain rfl : u = t := Host.Outcome.next.inj (hu.symm.trans h)
  exact hframe.status

/-! ## The release of reset -/

theorem State.releaseReset_of_ok (hv : s.verdict = .ok) : s.releaseReset = { s with status := .running } := by
  simp [State.releaseReset, hv]

theorem State.releaseReset_of_rejected {cause : Fault} {idx : Word} (hv : s.verdict = .rejected cause idx) :
    s.releaseReset = s.raiseFault cause idx 0#24 := by
  simp [State.releaseReset, hv]

/-- The move `releaseReset` is served in RESET (70_reset_and_hazards.md R132). -/
theorem step_of_releaseReset {rest : List HostMove} (hhost : s.host = .releaseReset :: rest) (hs : s.status = .reset) :
    step s = .next (State.releaseReset { s with host := rest }) :=
  (step_of_host_cons hhost).trans (if_pos hs)

end Rows

/-! ## The statements -/

/-- Settles O34: of the four cases of a turn, one is not RUNNING's, one is the miss, one ends in FAULTED, and the last leaves
the status at RUNNING. -/
theorem aMissHaltsAndNothingElseDoes : Obligations.AMissHaltsAndNothingElseDoes := by
  refine ⟨fun s hs hf => ⟨s.halt, coreTurn_of_miss hs hf, rfl, s.halt_readReg, rfl, rfl, rfl⟩, ?_⟩
  intro s t hs hturn hhalted
  obtain ⟨hnot, -⟩ | ⟨-, hf, hc⟩ | ⟨w, e, -, -, -, hc⟩ | ⟨w, i, -, -, hd, hc⟩ := coreTurn_cases s
  · exact absurd hs hnot
  · rw [hc] at hturn
    cases hturn
    exact ⟨hf, rfl⟩
  · rw [hc] at hturn
    cases hturn
    cases hhalted
  · have hstatus : t.status = s.status := exec_status (wf_of_decode_ok hd) (hc.symm.trans hturn)
    rw [hhalted, hs] at hstatus
    cases hstatus

/-- Settles O33: with no move pending a step is a turn of the CORE, and fetch and decode choose its row. -/
theorem stepRunsTheDecodedInstruction : Obligations.StepRunsTheDecodedInstruction := by
  intro s hhost hs
  refine ⟨fun hf => ?_, fun w hf => ⟨fun e hd => ?_, fun i hd => ⟨wf_of_decode_ok hd, ?_⟩⟩⟩
  · exact (step_of_host_nil hhost).trans (coreTurn_of_miss hs hf)
  · exact step_faultTaken_of_decode_error hhost hs hf hd
  · exact (step_of_host_nil hhost).trans (coreTurn_of_decode_ok hs hf hd)

/-- Settles O35: the turn is `raiseUnknown`, which records the fault and writes nothing else. -/
theorem illegalWordFaultsWithoutEffect : Obligations.IllegalWordFaultsWithoutEffect :=
  fun s _ _ hs hf hd => ⟨_, coreTurn_of_decode_error hs hf hd, s.raiseFault_taken _ _ _⟩

/-- Settles O36: the two rows of the host's moves, the three of RUNNING as O33 gives them, and the two that absorb. -/
theorem engineTransitionTable : Obligations.EngineTransitionTable := by
  refine ⟨fun s rest hhost => ?_, fun s rest hhost hs => ⟨fun hv => ?_, fun cause idx hv => ?_⟩,
    fun s hhost hs => (stepRunsTheDecodedInstruction s hhost hs).1, fun s w hhost hs hf => ?_,
    fun s hhost hs => ?_, fun s hhost hs => ?_⟩
  · have hstep : step s = .next (State.assertReset { s with host := rest }) := step_of_host_cons hhost
    exact ⟨_, hstep, rfl, State.assertReset_readReg _, rfl, rfl, rfl, rfl, rfl⟩
  · rw [step_of_releaseReset hhost hs, State.releaseReset_of_ok (s := { s with host := rest }) hv]
  · rw [step_of_releaseReset hhost hs, State.releaseReset_of_rejected (s := { s with host := rest }) hv]
    exact ⟨_, rfl, State.raiseFault_taken _ _ _ _⟩
  · obtain ⟨hillegal, hlegal⟩ := (stepRunsTheDecodedInstruction s hhost hs).2 w hf
    refine ⟨hillegal, fun i hd => ?_⟩
    obtain ⟨hwf, hstep⟩ := hlegal i hd
    obtain ⟨t, ht, -, hframe⟩ := exec_next s hwf
    exact ⟨t, hstep.trans ht, hframe.status.trans hs, hframe⟩
  · exact (step_of_host_nil hhost).trans (coreTurn_of_not_running (by simp [hs]))
  · exact (step_of_host_nil hhost).trans (coreTurn_of_not_running (by simp [hs]))

end Sys2Proof.Machine
end

section
/-! SUPPORT. The statements of 42_data_processing.md (O12 to O18) and the lemmas they rest on: an instruction with a result is
one write of port D and one of pc, and the ALU's results are sums and differences of bit vectors. -/

namespace Sys2Proof.Machine

/-! ## The two operations of the unit -/

@[simp] theorem alu_add_result {w : Nat} (a b : BitVec w) : (alu .add a b).result = a + b := add_result a b

@[simp] theorem alu_sub_result {w : Nat} (a b : BitVec w) : (alu .sub a b).result = a - b := sub_result a b

/-! ## Instructions with a result -/

section Data

variable {i : Instr} {s : State} {rd : Reg} {v : Word}

/-- An instruction that writes port D writes no link, and its next pc is pc'. -/
theorem exec_of_portD (hwf : i.wf = true) (hport : portD i s = some (rd, v)) :
    exec i s = .next (s.writeBack (some (rd, v)) none s.pcInc) := by
  rw [exec_eq_writeBack s hwf, hport]
  cases i with
  | addReg | addImm | subReg | subImm | movReg | movImm => rfl
  | label | cbz | cbnz | bl | b | br => cases hport

/-- Only an instruction with a destination register has a port D result, and that register is its destination. -/
theorem isDestination_of_portD (hwf : i.wf = true) (hport : portD i s = some (rd, v)) : rd.isDestination = true := by
  cases i with
  | addReg | addImm | subReg | subImm | movReg | movImm => cases hport; exact hwf
  | label | cbz | cbnz | bl | b | br => cases hport

/-- What the rules R95 to R100 of 42_data_processing.md have in common: the word decodes to the instruction, which completes,
writes its result to its destination, advances pc and leaves the rest of the state alone. -/
theorem decode_and_exec_of_portD (i : Instr) (hwf : i.wf = true) (hport : portD i s = some (rd, v)) :
    decode (encode i) = .ok i ∧
    ∃ t, exec i s = .next t ∧ t.readReg rd = v ∧ t.readReg .pc = s.readReg .pc + 1#8 ∧ SameExcept [rd, .pc] s t := by
  obtain ⟨hresult, hpc, hframe⟩ := s.writeBack_data v s.pcInc (isDestination_of_portD hwf hport)
  exact ⟨decode_eq_ok_iff.2 ⟨hwf, rfl⟩, _, exec_of_portD hwf hport, hresult, hpc.trans s.pcInc_eq, hframe⟩

end Data

/-! ## The statements -/

/-- Settles O12: port D gets the ALU's sum of the two registers. -/
theorem addRegisterWritesTheSum : Obligations.AddRegisterWritesTheSum := by
  intro rd rn rm s hlr hpc
  have hport : portD (.addReg rd rn rm) s = some (rd, s.readReg rn + s.readReg rm) := by simp [portD]
  exact decode_and_exec_of_portD (.addReg rd rn rm) (Reg.isDestination_of_ne hlr hpc) hport

/-- Settles O13: port D gets the ALU's sum of the register and the immediate. -/
theorem addImmediateWritesTheSum : Obligations.AddImmediateWritesTheSum := by
  intro rd rn imm s hlr hpc
  have hport : portD (.addImm rd rn imm) s = some (rd, s.readReg rn + imm) := by simp [portD]
  exact decode_and_exec_of_portD (.addImm rd rn imm) (Reg.isDestination_of_ne hlr hpc) hport

/-- Settles O14: port D gets the ALU's difference of the two registers, `rn` the minuend. -/
theorem subRegisterWritesTheDifference : Obligations.SubRegisterWritesTheDifference := by
  intro rd rn rm s hlr hpc
  have hport : portD (.subReg rd rn rm) s = some (rd, s.readReg rn - s.readReg rm) := by simp [portD]
  exact decode_and_exec_of_portD (.subReg rd rn rm) (Reg.isDestination_of_ne hlr hpc) hport

/-- Settles O15: port D gets the ALU's difference of the register and the immediate. -/
theorem subImmediateWritesTheDifference : Obligations.SubImmediateWritesTheDifference := by
  intro rd rn imm s hlr hpc
  have hport : portD (.subImm rd rn imm) s = some (rd, s.readReg rn - imm) := by simp [portD]
  exact decode_and_exec_of_portD (.subImm rd rn imm) (Reg.isDestination_of_ne hlr hpc) hport

/-- Settles O16: port D gets the source register as it stands. -/
theorem movRegisterCopiesTheSource : Obligations.MovRegisterCopiesTheSource := by
  intro rd rm s hlr hpc
  have hport : portD (.movReg rd rm) s = some (rd, s.readReg rm) := rfl
  exact decode_and_exec_of_portD (.movReg rd rm) (Reg.isDestination_of_ne hlr hpc) hport

/-- Settles O17: port D gets the immediate as it stands. -/
theorem movImmediateWritesTheImmediate : Obligations.MovImmediateWritesTheImmediate := by
  intro rd imm s hlr hpc
  have hport : portD (.movImm rd imm) s = some (rd, imm) := rfl
  exact decode_and_exec_of_portD (.movImm rd imm) (Reg.isDestination_of_ne hlr hpc) hport

/-- Settles O18: LABEL writes no port but N, where pc' wraps after 0xFF. -/
theorem labelOnlyAdvancesThePc : Obligations.LabelOnlyAdvancesThePc := by
  refine ⟨by decide, fun s => ?_⟩
  obtain ⟨t, ht, hsource, hframe⟩ := exec_next (i := .label) s rfl
  have hpc : t.readReg .pc = s.readReg .pc + 1#8 := hsource.trans s.pcInc_eq
  refine ⟨t, ht, hpc, hframe, fun hlast => ?_⟩
  rw [hpc, hlast]
  rfl

end Sys2Proof.Machine
end

section
/-! SUPPORT. The statements of 43_control_transfer.md (O19, O20, O21) and the lemmas they rest on: what the
program_counter_mux selects for a conditional branch, and that a branch completes with that pc. -/

namespace Sys2Proof.Machine

section ConditionalBranch

variable (rn : Reg) (address : Word) (s : State)

/-! ## The next pc of a conditional branch -/

theorem pcSource_cbz_value :
    (pcSource (.cbz rn address) s).value s = if s.readReg rn = 0#8 then address else s.readReg .pc + 1#8 := by
  by_cases hz : s.readReg rn = 0#8
  · simp [pcSource, PcSource.value, zeroDetect_iff, hz]
  · simp [pcSource, PcSource.value, zeroDetect_iff, hz, s.pcInc_eq]

theorem pcSource_cbnz_value :
    (pcSource (.cbnz rn address) s).value s = if s.readReg rn = 0#8 then s.readReg .pc + 1#8 else address := by
  by_cases hz : s.readReg rn = 0#8
  · simp [pcSource, PcSource.value, zeroDetect_iff, hz, s.pcInc_eq]
  · simp [pcSource, PcSource.value, zeroDetect_iff, hz]

end ConditionalBranch

/-! ## A branch completes -/

/-- What the rules of 43_control_transfer.md have in common: the word decodes to the instruction, which completes, sends pc to
what the mux selects and leaves the rest of the state alone. -/
theorem decode_and_exec_of_pcSource {s : State} {p : Word} (i : Instr) (hwf : i.wf = true)
    (hsource : (pcSource i s).value s = p) :
    decode (encode i) = .ok i ∧ ∃ t, exec i s = .next t ∧ t.readReg .pc = p ∧ SameExcept i.writes s t := by
  obtain ⟨t, ht, hpc, hframe⟩ := exec_next s hwf
  exact ⟨decode_eq_ok_iff.2 ⟨hwf, rfl⟩, t, ht, hpc.trans hsource, hframe⟩

/-! ## The statements -/

/-- Settles O19: the mux selects the address exactly when the zero detector sees 0. -/
theorem cbzBranchesExactlyOnZero : Obligations.CbzBranchesExactlyOnZero := by
  intro rn address s
  exact decode_and_exec_of_pcSource (.cbz rn address) rfl (pcSource_cbz_value rn address s)

/-- Settles O20: the mux selects the address exactly when the zero detector does not see 0. -/
theorem cbnzBranchesExactlyOnNonzero : Obligations.CbnzBranchesExactlyOnNonzero := by
  intro rn address s
  exact decode_and_exec_of_pcSource (.cbnz rn address) rfl (pcSource_cbnz_value rn address s)

/-- Settles O21: BL is one write of port L and one of pc. -/
theorem blLinksTheNextAddress : Obligations.BlLinksTheNextAddress := by
  intro address s
  have hdecode : decode (encode (.bl address)) = .ok (.bl address) := decode_eq_ok_iff.2 ⟨rfl, rfl⟩
  have hexec : exec (.bl address) s = .next (s.writeBack none (some s.pcInc) address) := exec_eq_writeBack s rfl
  obtain ⟨hlr, hpc, hframe⟩ := s.writeBack_link s.pcInc address
  exact ⟨hdecode, _, hexec, hlr.trans s.pcInc_eq, hpc, hframe⟩

end Sys2Proof.Machine
end

section
/-! SUPPORT. The statements of 60_exceptions.md (O37, O45, O46) and the lemmas they rest on: a step in FAULTED or HALTED, what
the loader reports at the first bad record of a program, and the load and release of a rejected program. -/

namespace Sys2Proof.Machine

/-! ## FAULTED and HALTED absorb -/

section Absorbing

variable {s t : State}

/-- The two statuses that a run ends in (60_exceptions.md R114, R126). -/
def State.stopped (s : State) : Prop := s.status = .faulted ∨ s.status = .halted

theorem State.stopped.ne_running (h : s.stopped) : s.status ≠ .running := by
  rcases h with h | h <;> simp [h]

theorem State.stopped.ne_reset (h : s.stopped) : s.status ≠ .reset := by
  rcases h with h | h <;> simp [h]

/-- A move of the host that is served in FAULTED or HALTED and is neither abort nor reset changes nothing. -/
theorem hostTurn_of_stopped {move : HostMove} (hs : s.stopped) (hmove : move ≠ .abort ∧ move ≠ .assertReset)
    (h : hostTurn move s = .next t) : t = s := by
  obtain ⟨program, -, hreset, -⟩ | ⟨-, hreset, -⟩ | ⟨-, hturn⟩ | ⟨-, -, rfl⟩ | ⟨⟨rfl, -⟩ | rfl, -⟩ := hostTurn_cases h
  · exact absurd hreset hs.ne_reset
  · exact absurd hreset hs.ne_reset
  · exact Host.Outcome.next.inj (hturn.symm.trans (coreTurn_of_not_running hs.ne_running))
  · rfl
  · exact absurd rfl hmove.1
  · exact absurd rfl hmove.2

/-- A step in FAULTED or HALTED with no reset pending takes a move off the host's list and does nothing else. -/
theorem step_of_stopped (hs : s.stopped) (hpending : s.noResetPending) (h : step s = .next t) :
    t = { s with host := s.host.tail } := by
  obtain ⟨hnil, hstep⟩ | ⟨move, rest, hcons, hstep⟩ := step_cases s <;> rw [hstep] at h
  · rw [coreTurn_of_not_running hs.ne_running] at h
    cases h
    rw [hnil, List.tail_nil, ← hnil]
  · rw [hcons, List.tail_cons]
    exact hostTurn_of_stopped (s := { s with host := rest }) hs (hpending move (hcons ▸ List.mem_cons_self)) h

theorem State.noResetPending.tail (h : s.noResetPending) : State.noResetPending { s with host := s.host.tail } :=
  fun move hmem => h move (List.mem_of_mem_tail hmem)

end Absorbing

/-! ## What the loader reports -/

/-- The `idx` of the records before, in the order in which the loader keeps them. -/
def seenIdx (before : List RawRecord) : List Digits := (before.map RawRecord.idx).reverse

theorem seenIdx_append_singleton (before : List RawRecord) (r : RawRecord) :
    seenIdx (before ++ [r]) = r.idx :: seenIdx before := by
  simp [seenIdx]

theorem mem_seenIdx_iff {before : List RawRecord} {d : Digits} : d ∈ seenIdx before ↔ ∃ q ∈ before, q.idx = d := by
  simp [seenIdx]

/-- An operand fails the width check when it is there and is not 8 digits. -/
theorem widthOk_eq_false_iff {operand : Option Digits} :
    widthOk operand = false ↔ ∃ d, operand = some d ∧ d.length ≠ 8 := by
  cases operand <;> simp [widthOk]

section Record

variable {before after : List RawRecord} {r : RawRecord}

/-- The loader's first check is 60_exceptions.md R116. -/
theorem malformedAfter_iff :
    MalformedAfter before r ↔
      (!(widthOk (some r.idx) && widthOk r.body.addressOperand) || (seenIdx before).contains r.idx) = true := by
  have hidx : widthOk (some r.idx) = false ↔ r.idx.length ≠ 8 := by simp [widthOk]
  simp only [MalformedAfter, Bool.or_eq_true, Bool.not_eq_true', Bool.and_eq_false_iff, List.contains_iff_mem, hidx,
    widthOk_eq_false_iff, mem_seenIdx_iff]
  exact or_comm

/-- The loader's second check is 60_exceptions.md R117. -/
theorem wrongImmediateWidth_iff : WrongImmediateWidth r ↔ (!widthOk r.body.immediateOperand) = true := by
  rw [Bool.not_eq_true', widthOk_eq_false_iff, WrongImmediateWidth]

theorem recordFault_of_malformed (h : MalformedAfter before r) :
    recordFault (seenIdx before) r = some .malformedProgram :=
  if_pos (malformedAfter_iff.1 h)

theorem recordFault_of_wrongWidth (hmal : ¬ MalformedAfter before r) (hwidth : WrongImmediateWidth r) :
    recordFault (seenIdx before) r = some .widthMismatch :=
  (if_neg (mt malformedAfter_iff.2 hmal)).trans (if_pos (wrongImmediateWidth_iff.1 hwidth))

theorem recordFault_of_good (hmal : ¬ MalformedAfter before r) (hwidth : ¬ WrongImmediateWidth r) :
    recordFault (seenIdx before) r = none :=
  (if_neg (mt malformedAfter_iff.2 hmal)).trans (if_neg (mt wrongImmediateWidth_iff.2 hwidth))

theorem offendingIdx_of_length (h : r.idx.length = 8) : offendingIdx r = digitsWord r.idx := by
  simp [offendingIdx, widthOk, h]

theorem length_idx_of_not_malformed (h : ¬ MalformedAfter before r) : r.idx.length = 8 := by
  by_contra hlen
  exact h (.inr (.inl hlen))

/-- The loader passes over records with no error, and keeps their `idx`. -/
theorem checkRecords_append {middle : List RawRecord} (h : ProgramAccepted (before ++ middle)) :
    checkRecords (seenIdx before) (middle ++ after) = checkRecords (seenIdx (before ++ middle)) after := by
  induction middle generalizing before with
  | nil => rw [List.nil_append, List.append_nil]
  | cons q rest ih =>
    obtain ⟨hmal, hwidth⟩ := h before q rest rfl
    have hsplit : before ++ q :: rest = (before ++ [q]) ++ rest := by simp
    rw [hsplit] at h ⊢
    rw [← ih h, seenIdx_append_singleton, List.cons_append, checkRecords, recordFault_of_good hmal hwidth]

/-- The loader reports the first bad record (60_exceptions.md R118). -/
theorem checkRecords_of_first_bad {cause : Fault} (hbefore : ProgramAccepted before)
    (hbad : recordFault (seenIdx before) r = some cause) :
    checkRecords [] (before ++ r :: after) = .rejected cause (offendingIdx r) := by
  have hpass : checkRecords [] (before ++ r :: after) = checkRecords (seenIdx before) (r :: after) :=
    checkRecords_append (before := []) hbefore
  rw [hpass, checkRecords, hbad]

end Record

/-! ## Load and release -/

theorem run_succ_of_step {M : Host.Core} {n : Nat} {s u : M.State} (h : M.step s = .next u) :
    M.run (n + 1) s = M.run n u := by
  rw [Host.Core.run, h]

/-- A state that a step leaves as it is stays so through every run. -/
theorem run_of_step_self {M : Host.Core} {s : M.State} (h : M.step s = .next s) (n : Nat) : M.run n s = .next s := by
  induction n with
  | zero => rfl
  | succ n ih => rw [run_succ_of_step h, ih]

/-- The move `load` is served in RESET (70_reset_and_hazards.md R132). -/
theorem step_of_load {s : State} {program : List RawRecord} {rest : List HostMove}
    (hhost : s.host = .load program :: rest) (hs : s.status = .reset) :
    step s = .next (State.loadProgram { s with host := rest } program) :=
  (step_of_host_cons hhost).trans (if_pos hs)

section Rejected

variable {s : State} {program : List RawRecord} {cause : Fault} {idx : Word}

/-- `s` after the load of a program that the loader rejects, with the moves `rest` still pending
(70_reset_and_hazards.md R131; log 4). -/
def State.rejectedLoad (s : State) (cause : Fault) (idx : Word) (rest : List HostMove) : State :=
  { s with store := [], verdict := .rejected cause idx, host := rest }

theorem State.loadProgram_of_rejected {rest : List HostMove} (h : checkRecords [] program = .rejected cause idx) :
    State.loadProgram { s with host := rest } program = s.rejectedLoad cause idx rest := by
  simp [State.loadProgram, State.rejectedLoad, h]

/-- Loading a rejected program and releasing reset goes straight to FAULTED (60_exceptions.md R116). -/
theorem run_load_release_of_rejected (hs : s.status = .reset) (hhost : s.host = [.load program, .releaseReset])
    (h : checkRecords [] program = .rejected cause idx) :
    Host.Core.run Sys2Proof.core 2 s = .next ((s.rejectedLoad cause idx []).raiseFault cause idx 0#24) := by
  have hload : step s = .next (s.rejectedLoad cause idx [.releaseReset]) := by
    rw [step_of_load hhost hs, State.loadProgram_of_rejected h]
  have hrelease : step (s.rejectedLoad cause idx [.releaseReset]) =
      .next ((s.rejectedLoad cause idx []).raiseFault cause idx 0#24) :=
    step_of_releaseReset (s := s.rejectedLoad cause idx [.releaseReset]) rfl hs
  exact (run_succ_of_step (M := Sys2Proof.core) hload).trans (run_succ_of_step (M := Sys2Proof.core) hrelease)

end Rejected

/-- The one fault a turn of the CORE records is UnknownInstructionKind (60_exceptions.md R112). -/
theorem coreTurn_faultCause {s t : State} (h : coreTurn s = .next t) :
    t.faultCause = s.faultCause ∨ t.faultCause = some .unknownInstructionKind := by
  obtain ⟨-, hc⟩ | ⟨-, -, hc⟩ | ⟨w, e, -, -, -, hc⟩ | ⟨w, i, -, -, hd, hc⟩ := coreTurn_cases s <;>
    rw [hc] at h
  · cases h; exact .inl rfl
  · cases h; exact .inl rfl
  · cases h; exact .inr rfl
  · obtain ⟨regs, hexec⟩ := exec_of_regs_eq s (wf_of_decode_ok hd)
    rw [hexec s rfl] at h
    cases h
    exact .inl rfl

/-! ## The statements -/

/-- Settles O37, by induction on the number of steps: each takes one move off the host's list, so the status and the absence
of a pending reset last. -/
theorem faultedAndHaltedAbsorbUntilReset : Obligations.FaultedAndHaltedAbsorbUntilReset := by
  intro n s t hs hpending hrun
  induction n generalizing s with
  | zero =>
    cases hrun
    rfl
  | succ n ih =>
    obtain ⟨u, hu, hrest⟩ := run_succ_eq_next hrun
    obtain rfl := step_of_stopped hs hpending hu
    rw [ih { s with host := s.host.tail } hs hpending.tail hrest, List.drop_tail]

/-- Settles O45: the first bad record is reported as MalformedProgram, and the FAULTED state that the release leads to has no
move pending. -/
theorem loaderRejectsMalformedPrograms : Obligations.LoaderRejectsMalformedPrograms := by
  intro s before after r hbefore hmal hs hhost
  have hverdict := checkRecords_of_first_bad (after := after) hbefore (recordFault_of_malformed hmal)
  exact ⟨_, run_load_release_of_rejected hs hhost hverdict, rfl, rfl, offendingIdx_of_length, rfl, rfl, rfl,
    run_of_step_self (M := Sys2Proof.core) rfl⟩

/-- Settles O46: a turn of the CORE records UnknownInstructionKind only, and the first bad record, not being malformed, is
reported as WidthMismatch with its 8-digit `idx`. -/
theorem loaderRejectsWrongWidths : Obligations.LoaderRejectsWrongWidths := by
  refine ⟨fun s t hturn hcause => ?_, fun s before after r hbefore hmal hwidth hs hhost => ?_⟩
  · rcases coreTurn_faultCause hturn with hkept | hunknown
    · exact hkept.symm.trans hcause
    · rw [hunknown] at hcause
      cases hcause
  · have hverdict := checkRecords_of_first_bad (after := after) hbefore (recordFault_of_wrongWidth hmal hwidth)
    exact ⟨_, run_load_release_of_rejected hs hhost hverdict, rfl, rfl,
      offendingIdx_of_length (length_idx_of_not_malformed hmal), rfl, rfl, rfl⟩

end Sys2Proof.Machine
end

section
/-! SUPPORT. The statement of 70_reset_and_hazards.md (O44) and the lemmas it rests on: the reset context depends on the
registers and the data memory alone, and the first step from it fetches at 0x00. -/

namespace Sys2Proof.Machine

section ResetContext

variable {s t : State}

/-- Whether the context is the reset context depends on the registers and the data memory alone. -/
theorem State.contextIsReset.congr (hreset : s.contextIsReset) (hregs : t.regs = s.regs) (hmem : t.mem = s.mem) :
    t.contextIsReset := by
  obtain ⟨hzero, hempty⟩ := hreset
  exact ⟨fun r => (State.readReg_congr hregs r).trans (hzero r), hmem.trans hempty⟩

section FirstStep

variable (hreset : t.contextIsReset) (hhost : t.host = []) (hs : t.status = .running)
include hreset hhost hs

/-- An empty slot 0x00 is a miss of the first step, which halts (70_reset_and_hazards.md R129). -/
theorem step_of_contextIsReset_miss (hf : t.fetch 0#8 = none) :
    step t = .next t.halt := by
  obtain ⟨hzero, -⟩ := hreset
  exact (stepRunsTheDecodedInstruction t hhost hs).1 (by rw [hzero, hf])

/-- The first step executes a legal word of slot 0x00 (70_reset_and_hazards.md R129). -/
theorem step_of_contextIsReset_decode_ok {w : InstrWord} {i : Instr} (hf : t.fetch 0#8 = some w) (hd : decode w = .ok i) :
    step t = exec i t := by
  obtain ⟨hzero, -⟩ := hreset
  obtain ⟨-, hword⟩ := stepRunsTheDecodedInstruction t hhost hs
  obtain ⟨-, hlegal⟩ := hword w (by rw [hzero, hf])
  exact (hlegal i hd).2

end FirstStep

end ResetContext

/-! ## The statement -/

/-- Settles O44: the release is O36's row of RESET, it keeps the reset context and the store, and so pc is 0 when the first
step fetches. -/
theorem releaseFetchesAtZero : Obligations.ReleaseFetchesAtZero := by
  intro s hreset hs hhost
  obtain ⟨-, hrelease, -⟩ := engineTransitionTable
  obtain ⟨hok, hrejected⟩ := hrelease s [] hhost hs
  refine ⟨fun hv => ?_, fun cause idx hv => ?_⟩
  · have hcontext : State.contextIsReset { s with status := .running, host := [] } := hreset.congr rfl rfl
    refine ⟨_, hok hv, rfl, rfl, hcontext.1 .pc, hcontext, fun hf => ?_, fun w i hf hd => ?_⟩
    · exact ⟨_, step_of_contextIsReset_miss hcontext rfl rfl hf, rfl, hcontext.congr rfl rfl⟩
    · exact step_of_contextIsReset_decode_ok hcontext rfl rfl hf hd
  · obtain ⟨t, ht, hstatus, hcause, -⟩ := hrejected cause idx hv
    exact ⟨t, ht, hstatus, hcause⟩

end Sys2Proof.Machine
end

section
/-! SUPPORT. The statements of 30_encoding.md that it derives (O6, O7, O8, O10): the decoder and the encoder are inverse to each
other, and the fixed bits of the match and mask table keep its rows apart. -/

namespace Sys2Proof

/-! ## The fixed bits of two rows -/

/-- A word with the fixed bits of two rows makes the rows' patterns agree wherever both rows fix a bit. -/
theorem pattern_and_mask_comm {w : InstrWord} {row row' : TableRow} (h : w &&& row.mask = row.pattern)
    (h' : w &&& row'.mask = row'.pattern) : row.pattern &&& row'.mask = row'.pattern &&& row.mask := by
  rw [← h, ← h', BitVec.and_assoc, BitVec.and_assoc, BitVec.and_comm row.mask]

/-- Two rows of the table differ at a bit that both fix (30_encoding.md R52). -/
theorem eq_of_pattern_and_mask_comm : ∀ row ∈ opcodeTable, ∀ row' ∈ opcodeTable,
    row.pattern &&& row'.mask = row'.pattern &&& row.mask → row = row' := by
  decide

/-! ## The statements -/

/-- Settles O7: the decoder is the encoder's inverse on the legal records. -/
theorem decodeOfEncodeIsTheRecord : Obligations.DecodeOfEncodeIsTheRecord :=
  fun _ hwf => decode_eq_ok_iff.2 ⟨hwf, rfl⟩

/-- Settles O8: what decodes is the word of the legal record it decodes to. -/
theorem encodeOfDecodeIsTheWord : Obligations.EncodeOfDecodeIsTheWord :=
  fun _ _ hd => (decode_eq_ok_iff.1 hd).symm

/-- Settles O6: each word is the word of its record, which is legal. -/
theorem wordsOfEveryRowDecode : Obligations.WordsOfEveryRowDecode := by
  unfold Obligations.WordsOfEveryRowDecode
  simp only [decode_eq_ok_iff]
  decide

/-- Settles O10: the two rows would agree at every bit that both fix. -/
theorem noWordHasTheFixedBitsOfTwoRows : Obligations.NoWordHasTheFixedBitsOfTwoRows :=
  fun _ row row' hrow hrow' h h' => eq_of_pattern_and_mask_comm row hrow row' hrow' (pattern_and_mask_comm h h')

end Sys2Proof
end

section
/-! SUPPORT. The arithmetic readings of 40_alu.md (O2, O4): the carry of the ripple-carry loop as a bound on the sum,
and the readings of `twos` and `sub` modulo 2^W. -/

namespace Sys2Proof.Machine

section Arithmetic

variable {w : Nat} (a b : BitVec w)

/-- Result and carry of `add` together are the whole sum. -/
theorem add_toNat : (add a b).result.toNat + 2 ^ w * (add a b).carry.toNat = a.toNat + b.toNat := by
  have h := rippleTo_toNat a b w
  rwa [Nat.mod_eq_of_lt a.isLt, Nat.mod_eq_of_lt b.isLt] at h

/-- The carry of `add` says that the sum does not fit. -/
theorem add_carry_iff : (add a b).carry = true ↔ 2 ^ w ≤ a.toNat + b.toNat := by
  have hsum := add_toNat a b
  have hfits := (add a b).result.isLt
  cases hc : (add a b).carry with
  | false =>
    rw [hc, Bool.toNat_false, Nat.mul_zero] at hsum
    simp only [Bool.false_eq_true, false_iff]
    omega
  | true =>
    rw [hc, Bool.toNat_true, Nat.mul_one] at hsum
    simp only [true_iff]
    omega

/-- The carry of `sub` is no inverted borrow: subtracting 0 gives none. -/
theorem sub_carry_iff : (sub a b).carry = true ↔ b.toNat ≠ 0 ∧ b.toNat ≤ a.toNat := by
  have ha := a.isLt
  rw [sub, twos_eq_neg, add_carry_iff, BitVec.toNat_neg]
  by_cases hb : b.toNat = 0
  · simp [hb, ha]
  · rw [Nat.mod_eq_of_lt (by omega)]
    omega

end Arithmetic

/-! ## The statements -/

/-- Settles O2: `add` is the addition of bit vectors, and its carry is the part of the sum that does not fit. -/
theorem adderIsAdditionModulo : Obligations.AdderIsAdditionModulo := by
  intro w a b
  exact ⟨by rw [add_result, BitVec.toNat_add], add_carry_iff a b⟩

/-- Settles O4: `twos` and `sub` are negation and subtraction of bit vectors. -/
theorem subtractionIsSubtractionModulo : Obligations.SubtractionIsSubtractionModulo := by
  intro w a b _
  exact ⟨by rw [twos_eq_neg, BitVec.toNat_neg], by rw [sub_result, BitVec.toNat_sub], sub_carry_iff a b⟩

end Sys2Proof.Machine
end

section
/-! SUPPORT. The statements about what every step keeps (O38, O40, O41, O42) and the lemmas they rest on:
each operation that a turn of the CORE or a move of the host ends in keeps `State.Inv`. -/

namespace Sys2Proof.Machine

/-! ## The loader's report -/

/-- The loader finds load-time faults only (60_exceptions.md R112). -/
theorem recordFault_ne_unknown (seen : List Digits) (r : RawRecord) :
    recordFault seen r ≠ some .unknownInstructionKind := by
  unfold recordFault
  split
  · simp
  · split <;> simp

theorem checkRecords_ne_unknown (seen : List Digits) (program : List RawRecord) (idx : Word) :
    checkRecords seen program ≠ .rejected .unknownInstructionKind idx := by
  induction program generalizing seen with
  | nil => simp [checkRecords]
  | cons r rest ih =>
    unfold checkRecords
    split
    · next cause hcause =>
      rintro ⟨⟩
      exact recordFault_ne_unknown seen r hcause
    · exact ih _

/-- A load writes the store, in its canonical form, and the loader's report, and nothing else (70_reset_and_hazards.md
R131). -/
theorem State.loadProgram_eq (s : State) (program : List RawRecord) :
    ∃ store, Store.wf store ∧ s.loadProgram program = { s with store := store, verdict := checkRecords [] program } := by
  refine ⟨_, s.loadProgram_store_wf program, ?_⟩
  unfold State.loadProgram
  cases checkRecords [] program <;> rfl

/-! ## The invariant, operation by operation -/

section Invariant

variable {s t : State}

/-- Outside FAULTED the invariant asks for canonical memories, the reset context in RESET, no fault record, and a report of
load-time faults only. -/
theorem State.Inv.of_not_faulted (hstatus : s.status ≠ .faulted) (hmem : Memory.wf s.mem) (hstore : Store.wf s.store)
    (hreset : s.status = .reset → s.contextIsReset)
    (hrecord : s.faultCause = none ∧ s.faultAddr = 0#8 ∧ s.faultWord = 0#24)
    (hverdict : ∀ idx, s.verdict ≠ .rejected .unknownInstructionKind idx) : s.Inv where
  mem_wf := hmem
  store_wf := hstore
  reset_context := hreset
  no_record _ := hrecord
  has_cause h := absurd h hstatus
  unknown_record h := by simp [hrecord.1] at h
  load_record h := by simp [hrecord.1] at h
  verdict_cause := hverdict

/-- The host's pending moves have no part in the invariant. -/
theorem State.Inv.with_host (h : s.Inv) (moves : List HostMove) : State.Inv { s with host := moves } where
  mem_wf := h.mem_wf
  store_wf := h.store_wf
  reset_context := h.reset_context
  no_record := h.no_record
  has_cause := h.has_cause
  unknown_record := h.unknown_record
  load_record := h.load_record
  verdict_cause := h.verdict_cause

theorem State.Inv.halt (h : s.Inv) (hs : s.status = .running) : s.halt.Inv :=
  .of_not_faulted (by simp) h.mem_wf h.store_wf (by simp) (h.no_record (by simp [hs])) h.verdict_cause

/-- A RUNNING CORE may hold anything in its registers. -/
theorem State.Inv.with_regs (h : s.Inv) (hs : s.status = .running) (regs : RegFile) : State.Inv { s with regs := regs } :=
  .of_not_faulted (by simp [hs]) h.mem_wf h.store_wf (by simp [hs]) (h.no_record (by simp [hs])) h.verdict_cause

/-- The fault of a reserved word stands at pc and names that word (41_sequencing.md R89). -/
theorem State.Inv.raiseUnknown (h : s.Inv) {w : InstrWord} {e : Reserved} (hf : s.fetch (s.readReg .pc) = some w)
    (hd : decode w = .error e) : (s.raiseUnknown w).Inv where
  mem_wf := h.mem_wf
  store_wf := h.store_wf
  reset_context := by simp
  no_record := by simp
  has_cause := by simp
  unknown_record _ := ⟨rfl, hf, e, hd⟩
  load_record := by simp
  verdict_cause := h.verdict_cause

theorem State.Inv.loadProgram (h : s.Inv) (hs : s.status = .reset) (program : List RawRecord) :
    (s.loadProgram program).Inv := by
  obtain ⟨store, hstore, hload⟩ := s.loadProgram_eq program
  rw [hload]
  exact .of_not_faulted (by simp [hs]) h.mem_wf hstore h.reset_context (h.no_record (by simp [hs]))
    (checkRecords_ne_unknown [] program)

/-- The release of a rejected program records a load-time fault over the reset context (60_exceptions.md R112, R116). -/
theorem State.Inv.raiseLoadFault (h : s.Inv) (hs : s.status = .reset) {cause : Fault} {idx : Word}
    (hv : s.verdict = .rejected cause idx) : (s.raiseFault cause idx 0#24).Inv where
  mem_wf := h.mem_wf
  store_wf := h.store_wf
  reset_context := by simp
  no_record := by simp
  has_cause := by simp
  unknown_record hcause := by
    obtain rfl : cause = .unknownInstructionKind := Option.some.inj hcause
    exact absurd hv (h.verdict_cause idx)
  load_record _ := ⟨rfl, (h.reset_context hs).congr rfl rfl⟩
  verdict_cause := h.verdict_cause

theorem State.Inv.releaseReset (h : s.Inv) (hs : s.status = .reset) : s.releaseReset.Inv := by
  cases hv : s.verdict with
  | ok =>
    rw [State.releaseReset_of_ok hv]
    exact .of_not_faulted (by simp) h.mem_wf h.store_wf (by simp) (h.no_record (by simp [hs])) h.verdict_cause
  | rejected cause idx =>
    rw [State.releaseReset_of_rejected hv]
    exact h.raiseLoadFault hs hv

theorem State.assertReset_contextIsReset (s : State) : s.assertReset.contextIsReset :=
  ⟨s.assertReset_readReg, rfl⟩

theorem State.Inv.assertReset (h : s.Inv) : s.assertReset.Inv :=
  .of_not_faulted (by simp) Memory.nil_wf h.store_wf (fun _ => s.assertReset_contextIsReset) ⟨rfl, rfl, rfl⟩
    h.verdict_cause

theorem coreTurn_inv (h : s.Inv) (hturn : coreTurn s = .next t) : t.Inv := by
  obtain ⟨-, hc⟩ | ⟨hs, -, hc⟩ | ⟨w, e, -, hf, hd, hc⟩ | ⟨w, i, hs, -, hd, hc⟩ := coreTurn_cases s <;>
    rw [hc] at hturn
  · cases hturn; exact h
  · cases hturn; exact h.halt hs
  · cases hturn; exact h.raiseUnknown hf hd
  · obtain ⟨regs, hexec⟩ := exec_of_regs_eq s (wf_of_decode_ok hd)
    rw [hexec s rfl] at hturn
    cases hturn
    exact h.with_regs hs regs

theorem hostTurn_inv {move : HostMove} (h : s.Inv) (hturn : hostTurn move s = .next t) : t.Inv := by
  obtain ⟨program, -, hs, rfl⟩ | ⟨-, hs, rfl⟩ | ⟨-, hcore⟩ | ⟨-, -, rfl⟩ | ⟨-, rfl⟩ := hostTurn_cases hturn
  · exact h.loadProgram hs program
  · exact h.releaseReset hs
  · exact coreTurn_inv h hcore
  · exact h
  · exact h.assertReset

end Invariant

/-! ## What stops a run, and what reaches the data memory -/

section Step

variable {s t : State}

/-- A turn of the CORE ends a run by a miss or a reserved word (60_exceptions.md R111). -/
theorem coreTurn_stops (hs : s.status = .running) (hturn : coreTurn s = .next t) (hstop : t.status ≠ .running) :
    (t.status = .halted ∧ s.fetch (s.readReg .pc) = none) ∨
    (t.status = .faulted ∧ ∃ w e, s.fetch (s.readReg .pc) = some w ∧ decode w = .error e) := by
  obtain ⟨hnot, -⟩ | ⟨-, hf, hc⟩ | ⟨w, e, -, hf, hd, hc⟩ | ⟨w, i, -, -, hd, hc⟩ := coreTurn_cases s
  · exact absurd hs hnot
  · rw [hc] at hturn
    cases hturn
    exact .inl ⟨rfl, hf⟩
  · rw [hc] at hturn
    cases hturn
    exact .inr ⟨rfl, w, e, hf, hd⟩
  · exact absurd ((exec_status (wf_of_decode_ok hd) (hc.symm.trans hturn)).trans hs) hstop

/-- Asserting reset empties the data memory, and nothing else touches it. -/
theorem hostTurn_mem {move : HostMove} (hturn : hostTurn move s = .next t) : t.mem = s.mem ∨ t.mem = [] := by
  obtain ⟨program, -, -, rfl⟩ | ⟨-, -, rfl⟩ | ⟨-, hcore⟩ | ⟨-, -, rfl⟩ | ⟨-, rfl⟩ := hostTurn_cases hturn
  · exact .inl (s.loadProgram_mem program)
  · exact .inl s.releaseReset_passedOn.mem
  · exact .inl (coreTurn_passedOn hcore).mem
  · exact .inl rfl
  · exact .inr rfl

theorem step_mem (h : step s = .next t) : t.mem = s.mem ∨ t.mem = [] := by
  obtain ⟨-, hs⟩ | ⟨move, rest, -, hs⟩ := step_cases s <;> rw [hs] at h
  · exact .inl (coreTurn_passedOn h).mem
  · exact hostTurn_mem (s := { s with host := rest }) h

end Step

/-! ## The statements -/

/-- Settles O42: a step is a turn of the CORE or a move of the host, and each keeps the invariant. -/
theorem everyStepKeepsConsistency : Obligations.EveryStepKeepsConsistency := by
  intro s t h hstep
  obtain ⟨-, hs⟩ | ⟨move, rest, -, hs⟩ := step_cases s <;> rw [hs] at hstep
  · exact coreTurn_inv h hstep
  · exact hostTurn_inv (h.with_host rest) hstep

/-- Settles O41: reset leaves no fault record and the reset context. -/
theorem consistencyHoldsAtReset : Obligations.ConsistencyHoldsAtReset :=
  .of_not_faulted nofun Memory.nil_wf Store.nil_wf (fun _ => ⟨State.reset_readReg, rfl⟩) ⟨rfl, rfl, rfl⟩ nofun

/-- Settles O40: a step keeps the data memory or empties it. -/
theorem dataMemoryStaysEmpty : Obligations.DataMemoryStaysEmpty := by
  refine ⟨rfl, fun n s t hempty hrun => run_induction (P := fun u => u.mem = []) (fun u v hu hv => ?_) hempty hrun⟩
  rcases step_mem hv with hkept | hnil
  · exact hkept.trans hu
  · exact hnil

/-- Settles O38: the moves served in RUNNING are wait, which is a turn of the CORE, abort and reset. -/
theorem onlyMissReservedWordOrHostStopsARun : Obligations.OnlyMissReservedWordOrHostStopsARun := by
  intro s t hs hstep hstop
  obtain ⟨-, hturn⟩ | ⟨move, rest, hhost, hturn⟩ := step_cases s <;> rw [hturn] at hstep
  · exact (coreTurn_stops hs hstep hstop).imp_right .inl
  · obtain ⟨program, -, hreset, -⟩ | ⟨-, hreset, -⟩ | ⟨-, hcore⟩ | ⟨-, -, rfl⟩ | ⟨hmove, rfl⟩ := hostTurn_cases hstep
    · simp [hs] at hreset
    · simp [hs] at hreset
    · exact (coreTurn_stops (s := { s with host := rest }) hs hcore hstop).imp_right .inl
    · exact absurd hs hstop
    · exact .inr (.inr ⟨rfl, move, rest, hhost, hmove.imp_left And.left⟩)

end Sys2Proof.Machine
end

section
/-! SUPPORT. The statements about instructions (O22, O23, O24, O26, O30, O32) and the lemmas they rest on:
the frames of two steps in a row, and the datapath as the three port writes of an instruction. -/

namespace Sys2Proof.Machine

section Frames

variable {rs rs' : List Reg} {s t u : State}

theorem SameExcept.mono (h : SameExcept rs s t) (hsub : ∀ r ∈ rs, r ∈ rs') : SameExcept rs' s t := by
  obtain ⟨hregs, hrest⟩ := h
  exact ⟨fun r hr => hregs r (mt (hsub r) hr), hrest⟩

theorem SameExcept.trans (h : SameExcept rs s t) (h' : SameExcept rs t u) : SameExcept rs s u := by
  obtain ⟨hregs, hbytes, hmem, hfetch, hstore, hstatus, hcause, haddr, hword, hverdict, hhost⟩ := h
  obtain ⟨hregs', hbytes', hmem', hfetch', hstore', hstatus', hcause', haddr', hword', hverdict', hhost'⟩ := h'
  exact ⟨fun r hr => (hregs' r hr).trans (hregs r hr), fun p => (hbytes' p).trans (hbytes p), hmem'.trans hmem,
    fun a => (hfetch' a).trans (hfetch a), hstore'.trans hstore, hstatus'.trans hstatus, hcause'.trans hcause,
    haddr'.trans haddr, hword'.trans hword, hverdict'.trans hverdict, hhost'.trans hhost⟩

theorem SameExcept.fetch (h : SameExcept rs s t) (a : Word) : t.fetch a = s.fetch a := by
  obtain ⟨-, -, -, hfetch, -⟩ := h
  exact hfetch a

theorem SameExcept.host (h : SameExcept rs s t) : t.host = s.host := by
  obtain ⟨-, -, -, -, -, -, -, -, -, -, hhost⟩ := h
  exact hhost

/-- The step of a RUNNING CORE on the word of a legal record, with no move pending, is that record's instruction. -/
theorem step_of_fetch_encode {i : Instr} (hhost : s.host = []) (hs : s.status = .running) (hwf : i.wf = true)
    (hf : s.fetch (s.readReg .pc) = some (encode i)) : step s = exec i s :=
  (step_of_host_nil hhost).trans (coreTurn_of_decode_ok hs hf (decode_eq_ok_iff.2 ⟨hwf, rfl⟩))

end Frames

/-! ## The datapath -/

/-- A read port whose address lines carry a register's number reads that register (41_sequencing.md R80). -/
@[simp] theorem readPort_number (any : DontCare) (s : State) (r : Reg) : readPort any s r.number = s.readReg r := by
  simp [readPort]

/-- On the fields of a record the datapath makes the record's three port writes, whatever stands on the don't-care signals
(41_sequencing.md R84, R88). -/
theorem datapath_encodeFields (any : DontCare) (i : Instr) (s : State) :
    datapath any (encodeFields i) i s = s.writeBack (portD i s) (portL i s) ((pcSource i s).value s) := by
  cases i with
  | addReg | addImm | subReg | subImm | movReg | movImm =>
    simp [datapath, controlSignals, encodeFields, portD, portL, pcSource, PcSource.value]
  | cbz rn | cbnz rn =>
    cases hz : zeroDetect (s.readReg rn) <;>
      simp [datapath, controlSignals, encodeFields, portD, portL, pcSource, PcSource.value, hz]
  | label | bl | b | br => simp [datapath, controlSignals, encodeFields, portD, portL, pcSource, PcSource.value]

/-! ## The statements -/

/-- Settles O32: every word that decodes has the fields of its record. -/
theorem datapathImplementsEveryInstruction : Obligations.DatapathImplementsEveryInstruction := by
  intro any w i s hd
  obtain ⟨hwf, rfl⟩ := decode_eq_ok_iff.1 hd
  rw [exec_eq_writeBack s hwf, fieldsOf_encode, datapath_encodeFields]

/-- Settles O30: a legal instruction sees and writes the register file alone. -/
theorem statusAndFaultRecordAreInvisibleToInstructions : Obligations.StatusAndFaultRecordAreInvisibleToInstructions := by
  intro i s st c a w hwf
  obtain ⟨regs, hexec⟩ := exec_of_regs_eq s hwf
  exact ⟨{ s with regs := regs }, hexec s rfl, rfl, rfl, rfl, rfl, hexec _ rfl⟩

/-- Settles O22: the mux selects the address. -/
theorem branchGoesToTheAddress : Obligations.BranchGoesToTheAddress := by
  intro address s
  exact decode_and_exec_of_pcSource (.b address) rfl rfl

/-- Settles O23: the mux selects port A. -/
theorem branchRegisterGoesToTheRegister : Obligations.BranchRegisterGoesToTheRegister := by
  intro rn s
  exact decode_and_exec_of_pcSource (.br rn) rfl rfl

/-- Settles O26: a reserved record ends in the one operation that takes a fault. -/
theorem reservedRecordRaisesUnknown : Obligations.ReservedRecordRaisesUnknown :=
  fun _ s hwf => ⟨_, exec_reserved s hwf, s.raiseFault_taken _ _ _⟩

/-- Settles O24: BL leaves the store alone, so that the second step executes the `BR lr`, which reads the link. -/
theorem callThenReturnComesBack : Obligations.CallThenReturnComesBack := by
  intro address s hhost hs hcall hreturn
  obtain ⟨-, t, ht, hlink, hpc, hframe⟩ := blLinksTheNextAddress address s
  obtain ⟨-, u, hu, hback, hframe'⟩ := branchRegisterGoesToTheRegister .lr t
  have hfirst : step s = .next t := (step_of_fetch_encode hhost hs rfl hcall).trans ht
  have hsecond : step t = .next u := by
    refine (step_of_fetch_encode (hframe.host.trans hhost) (hframe.status.trans hs) rfl ?_).trans hu
    rw [hpc, hframe.fetch, hreturn]
  have hrun : Host.Core.run Sys2Proof.core 2 s = .next u :=
    (run_succ_of_step (M := Sys2Proof.core) hfirst).trans (run_succ_of_step (M := Sys2Proof.core) hsecond)
  have hlr : u.readReg .lr = t.readReg .lr := hframe'.readReg (by decide)
  exact ⟨u, hrun, hback.trans hlink, hlr.trans hlink, hframe.trans (hframe'.mono (by decide))⟩

end Sys2Proof.Machine
end

section
/-! SUPPORT. The statements about the host (O47, O48, O49, O53, O54) and the lemmas they rest on: an idx of
8 digits is determined by its value, what the store of an accepted program holds, and the moves of the host, served and
refused. -/

namespace Sys2Proof.Machine

/-! ## The value of a bit-string -/

/-- The value of a bit-string, most significant digit first, is that of its digits in base 2, least significant first. -/
theorem digitsValue_eq_ofDigits (d : Digits) : digitsValue d = Nat.ofDigits 2 (d.reverse.map Bool.toNat) := by
  simp [digitsValue, Nat.ofDigits_eq_foldr, List.foldr_reverse, List.foldl_map, Nat.add_comm]

theorem lt_two_of_mem_map_toNat {d : Digits} {x : Nat} (h : x ∈ d.map Bool.toNat) : x < 2 := by
  obtain ⟨bit, -, rfl⟩ := List.mem_map.1 h
  exact bit.toNat_lt

theorem digitsValue_lt (d : Digits) : digitsValue d < 2 ^ d.length := by
  have h := Nat.ofDigits_lt_base_pow_length (b := 2) (l := d.reverse.map Bool.toNat) (by decide)
    fun x hx => lt_two_of_mem_map_toNat hx
  simpa [digitsValue_eq_ofDigits] using h

theorem digitsValue_inj {d e : Digits} (hlen : d.length = e.length) (h : digitsValue d = digitsValue e) : d = e := by
  rw [digitsValue_eq_ofDigits, digitsValue_eq_ofDigits] at h
  have hmap := Nat.ofDigits_inj_of_len_eq (by decide) (by simpa using hlen) (fun x hx => lt_two_of_mem_map_toNat hx)
    (fun x hx => lt_two_of_mem_map_toNat hx) h
  exact List.reverse_injective (List.map_injective_iff.2 (Function.LeftInverse.injective Bool.ofNat_toNat) hmap)

/-- Bit-strings of 8 digits with one value are one bit-string. -/
theorem digitsWord_inj {d e : Digits} (hd : d.length = 8) (he : e.length = 8) (h : digitsWord d = digitsWord e) :
    d = e := by
  have hdlt : digitsValue d < 2 ^ 8 := hd ▸ digitsValue_lt d
  have helt : digitsValue e < 2 ^ 8 := he ▸ digitsValue_lt e
  refine digitsValue_inj (hd.trans he.symm) ?_
  have hval := congrArg BitVec.toNat h
  rwa [digitsWord, digitsWord, BitVec.toNat_ofNat, BitVec.toNat_ofNat, Nat.mod_eq_of_lt hdlt,
    Nat.mod_eq_of_lt helt] at hval

/-! ## Accepted programs -/

section Accepted

variable {program rest : List RawRecord} {q r : RawRecord}

/-- The loader reports no error on an accepted program (70_reset_and_hazards.md R131). -/
theorem checkRecords_of_accepted (h : ProgramAccepted program) : checkRecords [] program = .ok := by
  have hpass := checkRecords_append (before := []) (after := []) h
  rwa [List.append_nil] at hpass

theorem ProgramAccepted.length_idx (h : ProgramAccepted program) (hr : r ∈ program) : r.idx.length = 8 := by
  obtain ⟨before, after, hsplit⟩ := List.append_of_mem hr
  exact length_idx_of_not_malformed (h before r after hsplit).1

theorem ProgramAccepted.tail (h : ProgramAccepted (r :: rest)) : ProgramAccepted rest := by
  intro before q after hsplit
  obtain ⟨hmal, hwidth⟩ := h (r :: before) q after (by rw [hsplit, List.cons_append])
  refine ⟨mt (Or.imp_left ?_) hmal, hwidth⟩
  rintro ⟨p, hp, hidx⟩
  exact ⟨p, List.mem_cons_of_mem r hp, hidx⟩

/-- A record after the first stands in another slot. -/
theorem ProgramAccepted.digitsWord_ne (h : ProgramAccepted (r :: rest)) (hq : q ∈ rest) :
    digitsWord q.idx ≠ digitsWord r.idx := by
  intro hslot
  have hidx : q.idx = r.idx :=
    digitsWord_inj (h.length_idx (List.mem_cons_of_mem r hq)) (h.length_idx List.mem_cons_self) hslot
  obtain ⟨before, after, hsplit⟩ := List.append_of_mem hq
  obtain ⟨hmal, -⟩ := h (r :: before) q after (by rw [hsplit, List.cons_append])
  exact hmal (.inl ⟨r, List.mem_cons_self, hidx.symm⟩)

/-- Each record of an accepted program has its word in its slot. -/
theorem slot_placeRecords_of_mem (h : ProgramAccepted program) (hr : r ∈ program) :
    Store.slot (placeRecords program) (digitsWord r.idx).toNat = some r.body.toWord := by
  induction program with
  | nil => cases hr
  | cons p rest ih =>
    rw [placeRecords]
    rcases List.mem_cons.1 hr with rfl | hrest
    · exact Store.slot_put_same _ _ _
    · rw [Store.slot_put_ne _ _ (mt BitVec.eq_of_toNat_eq (h.digitsWord_ne hrest)), ih h.tail hrest]

/-- A slot that no record names is empty. -/
theorem slot_placeRecords_of_ne {a : Word} (h : ∀ r ∈ program, digitsWord r.idx ≠ a) :
    Store.slot (placeRecords program) a.toNat = none := by
  induction program with
  | nil => rfl
  | cons p rest ih =>
    have hp : a ≠ digitsWord p.idx := (h p List.mem_cons_self).symm
    rw [placeRecords, Store.slot_put_ne _ _ (mt BitVec.eq_of_toNat_eq hp),
      ih fun r hr => h r (List.mem_cons_of_mem p hr)]

theorem State.loadProgram_of_accepted (s : State) (h : ProgramAccepted program) :
    s.loadProgram program = { s with store := placeRecords program, verdict := .ok } := by
  simp [State.loadProgram, checkRecords_of_accepted h]

/-- Loading an accepted program and releasing reset starts the run (70_reset_and_hazards.md R129, R131). -/
theorem run_load_release_of_accepted {s : State} (h : ProgramAccepted program) (hs : s.status = .reset)
    (hhost : s.host = [.load program, .releaseReset]) :
    Host.Core.run Sys2Proof.core 2 s =
      .next { s with store := placeRecords program, verdict := .ok, status := .running, host := [] } := by
  have hload : step s = .next { s with store := placeRecords program, verdict := .ok, host := [.releaseReset] } := by
    rw [step_of_load hhost hs, State.loadProgram_of_accepted _ h]
  have hrelease : step { s with store := placeRecords program, verdict := .ok, host := [.releaseReset] } =
      .next { s with store := placeRecords program, verdict := .ok, status := .running, host := [] } :=
    step_of_releaseReset rfl hs
  exact (run_succ_of_step (M := Sys2Proof.core) hload).trans (run_succ_of_step (M := Sys2Proof.core) hrelease)

end Accepted

/-! ## The moves of the host -/

section Moves

variable {s t : State} {rest : List HostMove}

theorem step_of_load_refused {program : List RawRecord} (hhost : s.host = .load program :: rest)
    (hs : s.status ≠ .reset) : step s = .refused .loadOutsideReset :=
  (step_of_host_cons hhost).trans (if_neg hs)

theorem step_of_abort (hhost : s.host = .abort :: rest) (hs : s.status = .running) :
    step s = .next (State.assertReset { s with host := rest }) :=
  (step_of_host_cons hhost).trans (if_pos hs)

theorem step_of_assertReset (hhost : s.host = .assertReset :: rest) :
    step s = .next (State.assertReset { s with host := rest }) :=
  step_of_host_cons hhost

/-- Of the moves served in RUNNING only abort and reset are not a turn of the CORE. -/
theorem coreTurn_of_hostTurn_running {move : HostMove} (hs : s.status = .running) (h : hostTurn move s = .next t)
    (habort : move ≠ .abort) (hassert : move ≠ .assertReset) : coreTurn s = .next t := by
  obtain ⟨program, -, hreset, -⟩ | ⟨-, hreset, -⟩ | ⟨-, hturn⟩ | ⟨-, hend, -⟩ | ⟨⟨hmove, -⟩ | hmove, -⟩ :=
    hostTurn_cases h
  · simp [hs] at hreset
  · simp [hs] at hreset
  · exact hturn
  · simp [hs] at hend
  · exact absurd hmove habort
  · exact absurd hmove hassert

/-- The host observes nothing exactly in RESET and RUNNING (60_exceptions.md R125). -/
theorem observation_eq_none_iff : s.observation = none ↔ s.status = .reset ∨ s.status = .running := by
  unfold State.observation
  cases s.status <;> simp

end Moves

/-! ## The statements -/

/-- Settles O47: the two steps leave the store that the loader places, and no two records of it share a slot. -/
theorem acceptedProgramFillsItsSlots : Obligations.AcceptedProgramFillsItsSlots := by
  intro s program h hs hhost
  exact ⟨_, run_load_release_of_accepted h hs hhost, rfl, rfl, rfl, fun _ hr => slot_placeRecords_of_mem h hr,
    fun _ ha => slot_placeRecords_of_ne ha⟩

/-- Settles O48: a load is refused, abort and reset assert reset, and any other move that is served is a turn of the CORE. -/
theorem hostWritesNothingWhileRunning : Obligations.HostWritesNothingWhileRunning := by
  intro s move rest hs hhost
  have hserve := step_of_host_cons hhost
  have hload : ∀ program t, move = .load program → step s ≠ .next t := by
    rintro program t rfl
    simp [step_of_load_refused hhost (by simp [hs])]
  refine ⟨hload, fun t ht => ?_, fun t ht habort hassert => ?_, ?_, ?_⟩
  · exact hostTurn_store (s := { s with host := rest }) (hserve ▸ ht) fun program hmove => hload program t hmove ht
  · exact coreTurn_of_hostTurn_running hs (hserve ▸ ht) habort hassert
  · rintro rfl
    exact hserve
  · intro hmove
    have hstep : step s = .next (State.assertReset { s with host := rest }) := by
      rcases hmove with rfl | rfl
      · exact step_of_abort hhost hs
      · exact step_of_assertReset hhost
    exact ⟨_, hstep, rfl, State.assertReset_contextIsReset _, rfl, rfl, rfl, rfl, rfl⟩

/-- Settles O49: each of the four moves checks the status first. -/
theorem hostMovesOutOfTurnAreRefused : Obligations.HostMovesOutOfTurnAreRefused := by
  intro s move rest hhost
  refine ⟨?_, ?_, ?_, ?_⟩
  · rintro program rfl hs
    exact step_of_load_refused hhost hs
  · rintro rfl hs
    exact (step_of_host_cons hhost).trans (if_neg hs)
  · rintro rfl hhalted hfaulted
    exact (step_of_host_cons hhost).trans (if_neg (not_or.2 ⟨hhalted, hfaulted⟩))
  · rintro rfl hs
    exact (step_of_host_cons hhost).trans (if_neg hs)

/-- Settles O53: the served moves one by one; a load writes the store and the loader's report. -/
theorem hostMovesInTurnAreServed : Obligations.HostMovesInTurnAreServed := by
  refine ⟨fun s rest => ⟨fun hhost => step_of_host_cons hhost, fun hhost hs => ?_, fun program hhost hs => ?_⟩,
    fun s hhost hs => ?_⟩
  · exact (step_of_host_cons hhost).trans (if_pos hs)
  · obtain ⟨store, -, hload⟩ := State.loadProgram_eq { s with host := rest } program
    exact ⟨_, (step_of_load hhost hs).trans (congrArg _ hload), rfl⟩
  · exact (step_of_host_nil hhost).trans (coreTurn_of_not_running (by simp [hs]))

/-- Settles O54: the step takes the fault, and the observation shows its record. -/
theorem hostObservesTheFault : Obligations.HostObservesTheFault := by
  refine ⟨fun s w e hhost hs hf hd => ?_, fun s => observation_eq_none_iff⟩
  exact ⟨_, (step_of_host_nil hhost).trans (coreTurn_of_decode_error hs hf hd), rfl⟩

end Sys2Proof.Machine
end

section
/-! SUPPORT. The statements about the host's step budget (O51, O52) and the lemmas they rest on: the run
under a budget turn by turn, and a branch to its own address as a fixed point. -/

namespace Sys2Proof.Machine

/-! ## A run under a budget -/

section Budget

variable {s t : State}

/-- Every turn of the CORE answers a next state. -/
theorem exists_coreTurn_next (s : State) : ∃ t, coreTurn s = .next t := by
  obtain ⟨-, hc⟩ | ⟨-, -, hc⟩ | ⟨w, e, -, -, -, hc⟩ | ⟨w, i, -, -, hd, hc⟩ := coreTurn_cases s
  · exact ⟨_, hc⟩
  · exact ⟨_, hc⟩
  · exact ⟨_, hc⟩
  · exact ⟨_, hc.trans (exec_eq_writeBack s (wf_of_decode_ok hd))⟩

/-- A CORE that is not RUNNING spends nothing of the budget. -/
theorem runWithin_of_not_running (hs : s.status ≠ .running) (n m : Nat) : runWithin n s = runWithin m s := by
  unfold runWithin
  cases hstatus : s.status with
  | running => exact absurd hstatus hs
  | reset | halted | faulted => rfl

theorem runWithin_zero (hs : s.status = .running) : runWithin 0 s = .budgetExceeded := by
  simp only [runWithin, hs]

/-- A turn of a RUNNING CORE spends one unit of the budget (log 16). -/
theorem runWithin_succ (hs : s.status = .running) (hturn : coreTurn s = .next t) (n : Nat) :
    runWithin (n + 1) s = runWithin n t := by
  have hengine : engineStep s = .next t := by simpa only [coreTurn, hs] using hturn
  simp only [runWithin, hs, hengine]

end Budget

/-! ## A branch to its own address -/

theorem State.writeReg_readReg (s : State) (r : Reg) : s.writeReg r (s.readReg r) = s := by
  cases r <;> rfl

/-- B to the address in pc changes nothing (43_control_transfer.md R107). -/
theorem exec_b_pc (s : State) : exec (.b (s.readReg .pc)) s = .next s :=
  congrArg Host.Outcome.next (s.writeReg_readReg .pc)

/-! ## The statements -/

/-- Settles O51, by induction on the budget: each turn leads back to the state it began in. -/
theorem selfBranchExceedsEveryBudget : Obligations.SelfBranchExceedsEveryBudget := by
  intro n s hs hf
  have hturn : coreTurn s = .next s :=
    (coreTurn_of_decode_ok hs hf (decode_eq_ok_iff.2 ⟨rfl, rfl⟩)).trans (exec_b_pc s)
  induction n with
  | zero => exact runWithin_zero hs
  | succ n ih => rw [runWithin_succ hs hturn, ih]

/-- Settles O52, by induction on the smaller budget: both runs take the same turn. -/
theorem largerBudgetSameEnd : Obligations.LargerBudgetSameEnd := by
  intro n k s hend
  induction n generalizing s with
  | zero =>
    by_cases hs : s.status = .running
    · exact absurd (runWithin_zero hs) hend
    · exact runWithin_of_not_running hs _ _
  | succ n ih =>
    by_cases hs : s.status = .running
    · obtain ⟨t, hturn⟩ := exists_coreTurn_next s
      rw [runWithin_succ hs hturn] at hend
      rw [Nat.succ_add, runWithin_succ hs hturn, runWithin_succ hs hturn, ih t hend]
    · exact runWithin_of_not_running hs _ _

end Sys2Proof.Machine
end
